-- ==== Sys2Proof/Word.lean ====
section
/-! DEFINITION. The word types of QRCORE: a byte of memory or field element, and a 32-bit register. -/

namespace Sys2Proof

/-- A byte of M, a codeword or a GF(256) element (00_scope.md R7, R8). -/
abbrev Byte := BitVec 8

/-- A host-visible register or a command word (10_state.md R22, 30_encoding.md R90). -/
abbrev Word := BitVec 32

end Sys2Proof
end

