-- ==== Sys2Proof/Syntax.lean ====
section
/-! DEFINITION. The command set: one constructor of Instr per row of spec/opcode_table.json, with the immediates its
format carries (30_encoding.md R91, R92), each of exactly its field's width. -/

namespace Sys2Proof

/-- The mnemonics of the opcode map (30_encoding.md R94). -/
inductive Mnemonic where
  | nop | gfExp | gfLog | gfMul | rsGen | rsDiv | bchFmt | bchVer
  | bsClear | bsPut | segNum | segAlnum | segByte | segKanji | bsFinal
  | mxBuild | mxScore | mxMake | mxGet
  deriving DecidableEq, Repr

/-- The command formats (30_encoding.md R91). -/
inductive Format where
  | Z | A | AB | F | V | X
  deriving DecidableEq, Repr

/-- A decoded command. -/
inductive Instr where
  /-- NOP (40_control.md R122). -/
  | nop
  /-- GF_EXP a (41_gf.md R145). -/
  | gfExp (a : Byte)
  /-- GF_LOG a (R146). -/
  | gfLog (a : Byte)
  /-- GF_MUL a, b (R147). -/
  | gfMul (a b : Byte)
  /-- RS_GEN k (42_rs.md R164). -/
  | rsGen (k : Byte)
  /-- RS_DIV (R165). -/
  | rsDiv
  /-- BCH_FMT e, m (43_bch.md R183). -/
  | bchFmt (e : BitVec 2) (m : BitVec 3)
  /-- BCH_VER v (R184). -/
  | bchVer (v : BitVec 6)
  /-- BS_CLEAR (44_packer.md R210). -/
  | bsClear
  /-- BS_PUT (R211). -/
  | bsPut
  /-- SEG_NUM (R212). -/
  | segNum
  /-- SEG_ALNUM (R213). -/
  | segAlnum
  /-- SEG_BYTE (R214). -/
  | segByte
  /-- SEG_KANJI (R215). -/
  | segKanji
  /-- BS_FINAL (R216). -/
  | bsFinal
  /-- MX_BUILD m, t (45_matrix.md R254); t is the test flag T. -/
  | mxBuild (m : BitVec 3) (t : BitVec 1)
  /-- MX_SCORE (46_mask.md R285). -/
  | mxScore
  /-- MX_MAKE (R286). -/
  | mxMake
  /-- MX_GET (45_matrix.md R255). -/
  | mxGet
  deriving DecidableEq, Repr

/-- The mnemonic of a command. -/
def Instr.mnemonic : Instr → Mnemonic
  | .nop => .nop
  | .gfExp _ => .gfExp
  | .gfLog _ => .gfLog
  | .gfMul _ _ => .gfMul
  | .rsGen _ => .rsGen
  | .rsDiv => .rsDiv
  | .bchFmt _ _ => .bchFmt
  | .bchVer _ => .bchVer
  | .bsClear => .bsClear
  | .bsPut => .bsPut
  | .segNum => .segNum
  | .segAlnum => .segAlnum
  | .segByte => .segByte
  | .segKanji => .segKanji
  | .bsFinal => .bsFinal
  | .mxBuild _ _ => .mxBuild
  | .mxScore => .mxScore
  | .mxMake => .mxMake
  | .mxGet => .mxGet

/-- The format of a mnemonic (30_encoding.md R94). -/
def Mnemonic.format : Mnemonic → Format
  | .nop => .Z
  | .gfExp => .A
  | .gfLog => .A
  | .gfMul => .AB
  | .rsGen => .A
  | .rsDiv => .Z
  | .bchFmt => .F
  | .bchVer => .V
  | .bsClear => .Z
  | .bsPut => .Z
  | .segNum => .Z
  | .segAlnum => .Z
  | .segByte => .Z
  | .segKanji => .Z
  | .bsFinal => .Z
  | .mxBuild => .X
  | .mxScore => .Z
  | .mxMake => .Z
  | .mxGet => .Z

end Sys2Proof
end

