-- ==== Sys2Proof/WellFormed.lean ====
section
/-! DEFINITION. The written form of a command (30_encoding.md R98) and the check an assembler makes of it.

An Instr holds each immediate at its field's own width, so the check has to be made where a command is written down with
plain numbers: Written. Instr.WellFormed is that check of the command's written form. -/

namespace Sys2Proof

/-- A command as R98 writes it: the mnemonic, then its immediates in order. -/
structure Written where
  mnemonic : Mnemonic
  immediates : List Nat
  deriving DecidableEq, Repr

/-- The widths of the immediates a mnemonic is written with, in the order of R98 (fields of R91). -/
def Mnemonic.immediateWidths : Mnemonic → List Nat
  | .gfExp => [8]
  | .gfLog => [8]
  | .gfMul => [8, 8]
  | .rsGen => [8]
  | .bchFmt => [2, 3]
  | .bchVer => [6]
  | .mxBuild => [3, 1]
  | .nop | .rsDiv | .bsClear | .bsPut | .segNum | .segAlnum | .segByte | .segKanji | .bsFinal
  | .mxScore | .mxMake | .mxGet => []

/-- Each immediate fits its field, and there are as many as the format has (R98). -/
def Written.wf (w : Written) : Bool :=
  w.immediates.length == w.mnemonic.immediateWidths.length &&
    (w.immediates.zip w.mnemonic.immediateWidths).all fun p => decide (p.1 < 2 ^ p.2)

/-- The written form of a command. -/
def Instr.written : Instr → Written
  | .nop => ⟨.nop, []⟩
  | .gfExp a => ⟨.gfExp, [a.toNat]⟩
  | .gfLog a => ⟨.gfLog, [a.toNat]⟩
  | .gfMul a b => ⟨.gfMul, [a.toNat, b.toNat]⟩
  | .rsGen k => ⟨.rsGen, [k.toNat]⟩
  | .rsDiv => ⟨.rsDiv, []⟩
  | .bchFmt e m => ⟨.bchFmt, [e.toNat, m.toNat]⟩
  | .bchVer v => ⟨.bchVer, [v.toNat]⟩
  | .bsClear => ⟨.bsClear, []⟩
  | .bsPut => ⟨.bsPut, []⟩
  | .segNum => ⟨.segNum, []⟩
  | .segAlnum => ⟨.segAlnum, []⟩
  | .segByte => ⟨.segByte, []⟩
  | .segKanji => ⟨.segKanji, []⟩
  | .bsFinal => ⟨.bsFinal, []⟩
  | .mxBuild m t => ⟨.mxBuild, [m.toNat, t.toNat]⟩
  | .mxScore => ⟨.mxScore, []⟩
  | .mxMake => ⟨.mxMake, []⟩
  | .mxGet => ⟨.mxGet, []⟩

/-- The command a written form stands for. Its fields are cut to their widths; assemble refuses the forms this would
change. -/
def Written.instr (w : Written) : Instr :=
  let imm (k : Nat) : Nat := w.immediates.getD k 0
  match w.mnemonic with
  | .nop => .nop
  | .gfExp => .gfExp (.ofNat 8 (imm 0))
  | .gfLog => .gfLog (.ofNat 8 (imm 0))
  | .gfMul => .gfMul (.ofNat 8 (imm 0)) (.ofNat 8 (imm 1))
  | .rsGen => .rsGen (.ofNat 8 (imm 0))
  | .rsDiv => .rsDiv
  | .bchFmt => .bchFmt (.ofNat 2 (imm 0)) (.ofNat 3 (imm 1))
  | .bchVer => .bchVer (.ofNat 6 (imm 0))
  | .bsClear => .bsClear
  | .bsPut => .bsPut
  | .segNum => .segNum
  | .segAlnum => .segAlnum
  | .segByte => .segByte
  | .segKanji => .segKanji
  | .bsFinal => .bsFinal
  | .mxBuild => .mxBuild (.ofNat 3 (imm 0)) (.ofNat 1 (imm 1))
  | .mxScore => .mxScore
  | .mxMake => .mxMake
  | .mxGet => .mxGet

/-- An assembler refuses an immediate that does not fit its field (R98). -/
def assemble (w : Written) : Option Instr :=
  if w.wf then some w.instr else none

/-- A command is well formed when its written form passes the assembler's check. -/
def Instr.WellFormed (i : Instr) : Prop := i.written.wf = true

end Sys2Proof
end

