-- ==== Sys2Proof/Decode.lean ====
section
/-! DEFINITION. Decoding a command word by the opcode table (30_encoding.md R94, R97), rejecting by name, and after it the
encoder written from the formats of R91. -/

namespace Sys2Proof

/-- One row of the opcode table: a word w selects it when w and mask equal match (30_encoding.md R94). -/
structure OpcodeRow where
  mnemonic : Mnemonic
  pattern : Word
  mask : Word
  deriving DecidableEq, Repr

/-- Why a command word is ILLEGAL. Both complete with ILLEGAL_COMMAND. -/
inductive Reject where
  /-- Bits [7:0] are no opcode of the map (30_encoding.md R96). -/
  | unassignedOpcode (opc : Byte)
  /-- The opcode is assigned and a reserved bit is 1 (R93). -/
  | reservedBitSet (opc : Byte)
  deriving DecidableEq, Repr

/-- Rows of the control, GF, RS and BCH units (30_encoding.md R94). -/
def opcodeRowsArithmetic : List OpcodeRow :=
  [ ⟨.nop,    0x00000000, 0xFFFFFFFF⟩,
    ⟨.gfExp,  0x00000010, 0xFFFF00FF⟩,
    ⟨.gfLog,  0x00000011, 0xFFFF00FF⟩,
    ⟨.gfMul,  0x00000012, 0xFF0000FF⟩,
    ⟨.rsGen,  0x00000020, 0xFFFF00FF⟩,
    ⟨.rsDiv,  0x00000021, 0xFFFFFFFF⟩,
    ⟨.bchFmt, 0x00000030, 0xFFFFE0FF⟩,
    ⟨.bchVer, 0x00000031, 0xFFFFC0FF⟩ ]

/-- Rows of the packer, matrix and mask units (30_encoding.md R94). -/
def opcodeRowsSymbol : List OpcodeRow :=
  [ ⟨.bsClear,  0x00000040, 0xFFFFFFFF⟩,
    ⟨.bsPut,    0x00000041, 0xFFFFFFFF⟩,
    ⟨.segNum,   0x00000042, 0xFFFFFFFF⟩,
    ⟨.segAlnum, 0x00000043, 0xFFFFFFFF⟩,
    ⟨.segByte,  0x00000044, 0xFFFFFFFF⟩,
    ⟨.segKanji, 0x00000045, 0xFFFFFFFF⟩,
    ⟨.bsFinal,  0x00000046, 0xFFFFFFFF⟩,
    ⟨.mxBuild,  0x00000050, 0xFFFFF0FF⟩,
    ⟨.mxScore,  0x00000051, 0xFFFFFFFF⟩,
    ⟨.mxMake,   0x00000052, 0xFFFFFFFF⟩,
    ⟨.mxGet,    0x00000053, 0xFFFFFFFF⟩ ]

/-- The opcode table (30_encoding.md R94). -/
def opcodeTable : List OpcodeRow := opcodeRowsArithmetic ++ opcodeRowsSymbol

/-- The word w selects the row (30_encoding.md R94). -/
def OpcodeRow.selects (r : OpcodeRow) (w : Word) : Bool := w &&& r.mask == r.pattern

/-! The fields of a command word (30_encoding.md R91). -/

/-- OPC = w[7:0]. -/
def opcOf (w : Word) : Byte := w.extractLsb' 0 8
/-- A = w[15:8]. -/
def fieldA (w : Word) : Byte := w.extractLsb' 8 8
/-- B = w[23:16]. -/
def fieldB (w : Word) : Byte := w.extractLsb' 16 8
/-- M = w[10:8]. -/
def fieldM (w : Word) : BitVec 3 := w.extractLsb' 8 3
/-- E = w[12:11]. -/
def fieldE (w : Word) : BitVec 2 := w.extractLsb' 11 2
/-- T = w[11]. -/
def fieldT (w : Word) : BitVec 1 := w.extractLsb' 11 1
/-- V = w[13:8]. -/
def fieldV (w : Word) : BitVec 6 := w.extractLsb' 8 6

/-- The command of a selected row, with the fields its format uses (30_encoding.md R97). -/
def Mnemonic.instrOf (n : Mnemonic) (w : Word) : Instr :=
  match n with
  | .nop => .nop
  | .gfExp => .gfExp (fieldA w)
  | .gfLog => .gfLog (fieldA w)
  | .gfMul => .gfMul (fieldA w) (fieldB w)
  | .rsGen => .rsGen (fieldA w)
  | .rsDiv => .rsDiv
  | .bchFmt => .bchFmt (fieldE w) (fieldM w)
  | .bchVer => .bchVer (fieldV w)
  | .bsClear => .bsClear
  | .bsPut => .bsPut
  | .segNum => .segNum
  | .segAlnum => .segAlnum
  | .segByte => .segByte
  | .segKanji => .segKanji
  | .bsFinal => .bsFinal
  | .mxBuild => .mxBuild (fieldM w) (fieldT w)
  | .mxScore => .mxScore
  | .mxMake => .mxMake
  | .mxGet => .mxGet

/-- Why a word that selects no row is ILLEGAL (30_encoding.md R93, R96). -/
def rejectOf (w : Word) : Reject :=
  if opcodeTable.any (fun r => opcOf r.pattern == opcOf w) then .reservedBitSet (opcOf w)
  else .unassignedOpcode (opcOf w)

/-- Decode(w): the first row the word selects, or ILLEGAL (30_encoding.md R97). Total on every word. -/
def decode (w : Word) : Except Reject Instr :=
  match opcodeTable.find? (fun r => r.selects w) with
  | some r => .ok (r.mnemonic.instrOf w)
  | none => .error (rejectOf w)

/-! The encoder. -/

/-- The opcode of a mnemonic (30_encoding.md R94). -/
def Mnemonic.opcode : Mnemonic → Byte
  | .nop => 0x00
  | .gfExp => 0x10
  | .gfLog => 0x11
  | .gfMul => 0x12
  | .rsGen => 0x20
  | .rsDiv => 0x21
  | .bchFmt => 0x30
  | .bchVer => 0x31
  | .bsClear => 0x40
  | .bsPut => 0x41
  | .segNum => 0x42
  | .segAlnum => 0x43
  | .segByte => 0x44
  | .segKanji => 0x45
  | .bsFinal => 0x46
  | .mxBuild => 0x50
  | .mxScore => 0x51
  | .mxMake => 0x52
  | .mxGet => 0x53

/-- Format Z: bits [31:8] zero (30_encoding.md R91). -/
def wordZ (opc : Byte) : Word := 0#24 ++ opc
/-- Format A: A in [15:8]. -/
def wordA (a opc : Byte) : Word := 0#16 ++ a ++ opc
/-- Format AB: B in [23:16], A in [15:8]. -/
def wordAB (a b opc : Byte) : Word := 0#8 ++ b ++ a ++ opc
/-- Format F: E in [12:11], M in [10:8]. -/
def wordF (e : BitVec 2) (m : BitVec 3) (opc : Byte) : Word := 0#19 ++ e ++ m ++ opc
/-- Format V: V in [13:8]. -/
def wordV (v : BitVec 6) (opc : Byte) : Word := 0#18 ++ v ++ opc
/-- Format X: T in [11], M in [10:8]. -/
def wordX (m : BitVec 3) (t : BitVec 1) (opc : Byte) : Word := 0#20 ++ t ++ m ++ opc

/-- The one word a command stands for (30_encoding.md R91, R98). -/
def encode (i : Instr) : Word :=
  match i with
  | .gfExp a | .gfLog a | .rsGen a => wordA a i.mnemonic.opcode
  | .gfMul a b => wordAB a b i.mnemonic.opcode
  | .bchFmt e m => wordF e m i.mnemonic.opcode
  | .bchVer v => wordV v i.mnemonic.opcode
  | .mxBuild m t => wordX m t i.mnemonic.opcode
  | .nop | .rsDiv | .bsClear | .bsPut | .segNum | .segAlnum | .segByte | .segKanji | .bsFinal
  | .mxScore | .mxMake | .mxGet => wordZ i.mnemonic.opcode

/-- The decoder on a table word: nbits bits of w, the bits above them 0. A command is one 32-bit register word, so there
is no byte order to lay out (30_encoding.md R90, 20_memory.md R65). -/
def decodeTableWord (nbits w : Nat) : Option Instr :=
  if nbits ≤ 32 then
    match decode (.ofNat 32 (w % 2 ^ nbits)) with
    | .ok i => some i
    | .error _ => none
  else none

end Sys2Proof
end

