-- ==== Sys2Proof/Config.lean ====
section
/-! DEFINITION. What an instance of QRCORE fixes: its implementation parameters (00_scope.md R6) and the constants of the
source (R17). -/

namespace Sys2Proof

/-- The implementation parameters a model takes as an argument (00_scope.md R6).
They stand in a field of State, because the fixed names exec and step take nothing else; no step changes them
(DESIGN CHOICE, safe: log entry 3). -/
structure Params where
  /-- MEM_SIZE, the bytes of the data memory M (D6). -/
  memSize : Nat
  /-- EC_MAX, the largest EC length RS_GEN accepts (D7). -/
  ecMax : Nat
  deriving DecidableEq, Repr

namespace Params

/-- The legal values of R6. -/
abbrev Legal (p : Params) : Prop :=
  (4096 ≤ p.memSize ∧ p.memSize ≤ 65536) ∧ (1 ≤ p.ecMax ∧ p.ecMax ≤ 254)

/-- The defaults of R6. -/
def default : Params := { memSize := 16384, ecMax := 30 }

end Params

namespace Config

/-- QRCORE_BASE, the block's base address in a larger system: OPEN, without a default, and no rule reads it (R6, R73).
A free value: nothing can be proved of it (log entry 10). -/
opaque qrcoreBase : Nat

/-- The primitive polynomial of GF(256) (41_gf.md R140). -/
def fieldPolynomial : Nat := 0x11D

/-- The BCH(15,5) generator (43_bch.md R180). -/
def formatGenerator : Nat := 0x537

/-- The XOR mask of the format word (43_bch.md R181). -/
def formatMask : Nat := 0x5412

/-- The BCH(18,6) generator (43_bch.md R180). -/
def versionGenerator : Nat := 0x1F25

end Config

end Sys2Proof
end

