-- ==== Sys2Proof/Machine/State.lean ====
section
/-! DEFINITION. The state of QRCORE (10_state.md R20, R43) as plain data, the reasons a step can stop, and the state right
after reset (70_reset_and_hazards.md R330). -/

namespace Sys2Proof.Machine

open Sys2Proof

/-- The model faults of 60_exceptions.md R306, a closed list. They are recorded in State.fault by the step that reaches them,
and step answers the recorded one from then on (R306: "neither agent has a step"). All are safe: the model claims nothing
where the spec gives no value. -/
inductive Fault where
  /-- Raised by a command (MemRead) or a host byte read of M[a] while it is undefined (20_memory.md R63, R64). Safe. -/
  | uninitRead (a : Nat)
  /-- Raised by a host access at an unmapped offset, a non-byte access to the M window, or a register access that is not
  32-bit and 4-byte aligned (20_memory.md R64, R65, 10_state.md R35). Safe. -/
  | hostBadAccess (offset width : Nat)
  /-- Raised by a host access other than a 32-bit read of STATUS while BUSY = 1 (70_reset_and_hazards.md R340). Safe. -/
  | hostHazard (offset : Nat)
  deriving DecidableEq, Repr

/-- Why the model has no meaning for an instruction. -/
inductive Refusal where
  /-- Raised by exec for an instruction without a meaning yet; no arm raises it. Safe. -/
  | notModelled (mnemonic : String)
  deriving DecidableEq, Repr

/-- The error codes STATUS.ERR holds (60_exceptions.md R300); codes 9 to 255 are never written (S8). -/
inductive ErrCode where
  | none | unsupportedCharacter | capacityExceeded | invalidParameter | outOfRange
  | domainError | illegalCommand | addressError | notReady
  deriving DecidableEq, Repr

/-- What MTX holds (10_state.md R33); the value 3 is never held. -/
inductive MtxState where
  | none | test | final
  deriving DecidableEq, Repr

/-- A cell of MTX (10_state.md R39). -/
inductive MtxCell where
  | unset | dark | light
  deriving DecidableEq, Repr

/-- The 177 × 177 array of cells, row first (10_state.md R39, 00_scope.md R11). -/
abbrev Grid := Vector (Vector MtxCell 177) 177

/-- M: the defined bytes, addresses strictly rising; an address not listed is undefined (20_memory.md R61, R63). -/
abbrev Memory := List Host.Cell

/-- One host access (20_memory.md R64, R65): a read or a write of width bits at a byte offset of the host space. -/
inductive HostAccess where
  | read (offset width : Nat)
  | write (offset width : Nat) (value : Word)
  deriving DecidableEq, Repr

/-- One step of a host program (30_encoding.md R99). -/
inductive HostStep where
  /-- One host access: WR, RD, or a byte of WRB or RDB. -/
  | access (a : HostAccess)
  /-- The WAIT loop: a STATUS read, and the same step again while it shows BUSY = 1. -/
  | wait
  /-- The STATUS read of CHECK: the program ends when it shows a nonzero ERR. -/
  | check
  deriving DecidableEq, Repr

/-- Who moves: the two agents (00_scope.md R16), or the platform's reset input (70_reset_and_hazards.md R330). -/
inductive Turn where
  /-- A host access given here, outside the host program. -/
  | host (access : HostAccess)
  /-- The next step of the host program. -/
  | program
  | engine
  | reset
  deriving DecidableEq, Repr

/-- The state. Every field up to fault is the spec's (10_state.md R43); the last five are the model's own. -/
structure State where
  /-- CMD (R22): the last command word accepted. -/
  cmd : Word
  /-- STATUS.BUSY (R23). -/
  busy : Bool
  /-- PENDING (R37): the command the engine performs next; meaningful while BUSY = 1. -/
  pending : Word
  /-- STATUS.ERR (R23). -/
  err : ErrCode
  /-- STATUS.LAST_OPC (R23). -/
  lastOpc : Byte
  /-- ARG0 (R24). -/
  arg0 : Word
  /-- ARG1 (R24). -/
  arg1 : Word
  /-- ARG2 (R24). -/
  arg2 : Word
  /-- RES0 (R25). -/
  res0 : Word
  /-- RES1 (R25). -/
  res1 : Word
  /-- VERSION (R26). -/
  version : BitVec 6
  /-- ECLEVEL (R27). -/
  ecLevel : BitVec 2
  /-- BS_BASE (R28). -/
  bsBase : Word
  /-- BS_LEN (R29). -/
  bsLen : Word
  /-- GEN_LEN (R30). -/
  genLen : Byte
  /-- GEN.coef[0 .. EC_MAX] (R38). -/
  gen : List Byte
  /-- MASK (R31). -/
  mask : BitVec 3
  /-- MODCOUNT (R32). -/
  modCount : Byte
  /-- MTX_STATE (R33). -/
  mtxState : MtxState
  /-- MTX (R39). -/
  mtx : Grid
  /-- PENALTY0 to PENALTY7 (R34). -/
  penalty : Vector Word 8
  /-- M (R40). -/
  mem : Memory
  /-- FAULT (R42): none, or the first model fault recorded. -/
  fault : Option Fault
  /-- The instance's parameters (00_scope.md R6). No step changes them. DESIGN CHOICE, safe: log entry 3. -/
  params : Params
  /-- The turns to come, first the next one: the interleaving of 20_memory.md R75 as data.
  DESIGN CHOICE, safe: log entry 1. -/
  schedule : List Turn
  /-- What the last host read returned (a byte read zero-extended), none before the first.
  DESIGN CHOICE, safe: log entry 2. -/
  lastRead : Option Word
  /-- The steps the host program still has to make (30_encoding.md R99). DESIGN CHOICE, safe: log entry 12. -/
  program : List HostStep
  /-- The ERR code with which CHECK ended the host program (30_encoding.md R99), none when none did.
  DESIGN CHOICE, safe: log entry 12. -/
  programError : Option Byte
  deriving DecidableEq, Repr

/-- The grid with every cell unset (45_matrix.md R251). -/
def Grid.unset : Grid := Vector.replicate 177 (Vector.replicate 177 MtxCell.unset)

/-- The state right after reset of an instance with the given parameters, no turn scheduled
and no host program (70_reset_and_hazards.md R330). R330 gives PENDING no value: 0 here (DESIGN CHOICE, unsafe: log entry 4). -/
def State.resetOf (p : Params) : State where
  cmd := 0
  busy := false
  pending := 0
  err := .none
  lastOpc := 0
  arg0 := 0
  arg1 := 0
  arg2 := 0
  res0 := 0
  res1 := 0
  version := 0
  ecLevel := 0
  bsBase := 0
  bsLen := 0
  genLen := 0
  gen := List.replicate (p.ecMax + 1) 0
  mask := 0
  modCount := 0
  mtxState := .none
  mtx := Grid.unset
  penalty := Vector.replicate 8 0
  mem := []
  fault := none
  params := p
  schedule := []
  lastRead := none
  program := []
  programError := none

/-- The machine right after reset, with the default parameters of 00_scope.md R6. -/
def State.reset : State := State.resetOf Params.default

end Sys2Proof.Machine
end

