-- ==== Sys2Proof/Machine/Ops.lean ====
section
/-! DEFINITION. The operations every command shares: the bytes of M, the cells of a grid, and how a command completes. -/

namespace Sys2Proof.Machine

open Sys2Proof

/-! The data memory M (20_memory.md R60 to R66). -/

/-- The byte at a, or none where it is undefined (20_memory.md R61). -/
def Memory.read : Memory → Nat → Option Byte
  | [], _ => none
  | c :: rest, a => if c.1 = a then some c.2 else Memory.read rest a

/-- MemWrite(a, 1, v) (20_memory.md R62): the cell enters the list at its place. -/
def Memory.write : Memory → Nat → Byte → Memory
  | [], a, v => [(a, v)]
  | c :: rest, a, v =>
    if a < c.1 then (a, v) :: c :: rest
    else if a = c.1 then (a, v) :: rest
    else c :: Memory.write rest a v

/-- MemRead(a + i, 1) for i in 0 .. n−1, in order; the first undefined address is the error (20_memory.md R63). -/
def Memory.readBytes (m : Memory) (a : Nat) : Nat → Except Nat (List Byte)
  | 0 => .ok []
  | n + 1 =>
    match m.read a with
    | none => .error a
    | some b =>
      match Memory.readBytes m (a + 1) n with
      | .ok bs => .ok (b :: bs)
      | .error x => .error x

/-- MemWrite(a + i, 1, v[i]) for each byte of the list, in order. -/
def Memory.writeBytes (m : Memory) (a : Nat) : List Byte → Memory
  | [] => m
  | v :: vs => Memory.writeBytes (m.write a v) (a + 1) vs

/-- The canonical form: addresses strictly rising. An unlisted address is undefined, so no entry can equal what it reads
as. -/
abbrev Memory.wf (m : Memory) : Prop := m.Pairwise fun c d => c.1 < d.1

/-- Every defined byte has an address below n. -/
abbrev Memory.below (m : Memory) (n : Nat) : Prop := ∀ c ∈ m, c.1 < n

/-! The cells of a grid (45_matrix.md R241). -/

/-- The cell at (r, c); outside the array nothing is set. -/
def Grid.get (g : Grid) (r c : Nat) : MtxCell :=
  if h : r < 177 ∧ c < 177 then (g[r]'h.1)[c]'h.2 else .unset

/-- A resolved cell: dark = 1, light = 0 (00_scope.md R11). -/
def MtxCell.ofBool (dark : Bool) : MtxCell := if dark then .dark else .light

/-- Put(r, c, x): set the cell whatever it held (45_matrix.md R241). -/
def Grid.put (g : Grid) (r c : Nat) (dark : Bool) : Grid :=
  if h : r < 177 ∧ c < 177 then g.set r ((g[r]'h.1).set c (.ofBool dark) h.2) h.1 else g

/-- PutIfUnset(r, c, x) (45_matrix.md R241). -/
def Grid.putIfUnset (g : Grid) (r c : Nat) (dark : Bool) : Grid :=
  if g.get r c = .unset then g.put r c dark else g

/-! How a command ends (40_control.md R121). -/

/-- What Execute(w, state) answers (40_control.md R121, R123). -/
inductive Execution where
  /-- Ok: the state with the command's effects applied. -/
  | ok (s : State)
  /-- Err(code). -/
  | err (code : ErrCode)
  /-- Fault(f), a model fault. -/
  | fault (f : Fault)
  deriving DecidableEq, Repr

/-- The completion of a command: ERR, LAST_OPC and BUSY, and nothing else (40_control.md R121). With an error code this is
the whole of QRCORE's exception entry (60_exceptions.md R303): no register is saved, no mode changes and control goes
nowhere. There is no return from it (R304): the next command that completes overwrites ERR. -/
def State.complete (code : ErrCode) (s : State) : State :=
  { s with err := code, lastOpc := opcOf s.pending, busy := false }

/-- Recording a model fault: FAULT keeps the first one, and no other state changes (60_exceptions.md R306, 10_state.md R42). -/
def State.recordFault (f : Fault) (s : State) : State :=
  { s with fault := s.fault.or (some f) }

/-- The end of the engine step of 40_control.md R121, from the state before the command and what Execute answered. -/
def finish (s : State) (e : Execution) : Host.Outcome State Fault Refusal :=
  match e with
  | .ok t => .next (t.complete .none)
  | .err code => .next (s.complete code)
  | .fault f => .next (s.recordFault f)

end Sys2Proof.Machine
end

