-- ==== Sys2Proof/Machine/Flags.lean ====
section
/-! DEFINITION. STATUS, the one flag register (10_state.md R23, R41), and the numeric codes of the fields it and MTX_STATE
read as. -/

namespace Sys2Proof.Machine

open Sys2Proof

/-- The number of an error code (60_exceptions.md R300). -/
def ErrCode.code : ErrCode → Byte
  | .none => 0
  | .unsupportedCharacter => 1
  | .capacityExceeded => 2
  | .invalidParameter => 3
  | .outOfRange => 4
  | .domainError => 5
  | .illegalCommand => 6
  | .addressError => 7
  | .notReady => 8

/-- ERRF, computed from ERR (10_state.md R23, R43). -/
def State.errf (s : State) : Bool := s.err.code != 0

/-- The STATUS word (10_state.md R23): LAST_OPC in [23:16], ERR in [15:8], ERRF in [1], BUSY in [0], the rest 0. -/
def State.status (s : State) : Word :=
  0#8 ++ s.lastOpc ++ s.err.code ++ 0#6 ++ BitVec.ofBool s.errf ++ BitVec.ofBool s.busy

/-- The number MTX_STATE reads as (10_state.md R33). -/
def MtxState.code : MtxState → BitVec 2
  | .none => 0
  | .test => 1
  | .final => 2

end Sys2Proof.Machine
end

