-- ==== Sys2Proof/Machine/Operands.lean ====
section
/-! DEFINITION. The operands a command takes besides its immediates: ARG0 to ARG2 as unsigned numbers, VERSION, and the
regions of M they name (30_encoding.md R92, R95, 20_memory.md R66). -/

namespace Sys2Proof.Machine

open Sys2Proof

/-- ARG0 as a whole unsigned number (30_encoding.md R92). -/
def State.argA (s : State) : Nat := s.arg0.toNat

/-- ARG1 as a whole unsigned number. -/
def State.argB (s : State) : Nat := s.arg1.toNat

/-- ARG2 as a whole unsigned number. -/
def State.argC (s : State) : Nat := s.arg2.toNat

/-- VERSION as a number; legal at use when it is 1 to 40 (10_state.md R26). -/
def State.v (s : State) : Nat := s.version.toNat

/-- VERSION is not one of 1 to 40: INVALID_PARAMETER at use (10_state.md R26). -/
abbrev State.versionIllegal (s : State) : Prop := s.v < 1 ∨ 40 < s.v

/-- The n bytes from a are not all in M: a + n over the naturals exceeds MEM_SIZE (20_memory.md R66). -/
abbrev State.outside (s : State) (a n : Nat) : Prop := s.params.memSize < a + n

/-- ceil(n / 8), the bytes that n bits fill. -/
def bytesFor (n : Nat) : Nat := (n + 7) / 8

/-- A result register holds a value zero-extended to 32 bits (00_scope.md R8); every value written fits (10_state.md R44). -/
def result (n : Nat) : Word := .ofNat 32 n

end Sys2Proof.Machine
end

