-- ==== Sys2Proof/Machine/Bus.lean ====
section
/-! DEFINITION. The host's accesses (10_state.md R22 to R36, 20_memory.md R64, R65, R72, 40_control.md R120,
70_reset_and_hazards.md R340), the steps of a host program (30_encoding.md R99), and the reset input (R330). -/

namespace Sys2Proof.Machine

open Sys2Proof

/-- The registers of the map (10_state.md R22). -/
inductive HostReg where
  | cmd | status | arg0 | arg1 | arg2 | res0 | res1 | version | ecLevel | bsBase | bsLen
  | genLen | mask | modCount | mtxState
  | penalty (m : Nat)
  | gen (j : Nat)
  deriving DecidableEq, Repr

/-- The byte offset of a register (10_state.md R22). -/
def HostReg.offset : HostReg → Nat
  | .cmd => 0x000
  | .status => 0x004
  | .arg0 => 0x008
  | .arg1 => 0x00C
  | .arg2 => 0x010
  | .res0 => 0x014
  | .res1 => 0x018
  | .version => 0x01C
  | .ecLevel => 0x020
  | .bsBase => 0x024
  | .bsLen => 0x028
  | .genLen => 0x02C
  | .mask => 0x030
  | .modCount => 0x034
  | .mtxState => 0x038
  | .penalty m => 0x040 + 4 * m
  | .gen j => 0x080 + 4 * j

/-- The registers an instance has: PENALTY0 to PENALTY7, GEN0 to GEN(EC_MAX) (10_state.md R22). -/
def hostRegs (ecMax : Nat) : List HostReg :=
  [.cmd, .status, .arg0, .arg1, .arg2, .res0, .res1, .version] ++
  [.ecLevel, .bsBase, .bsLen, .genLen, .mask, .modCount, .mtxState] ++
  (List.range 8).map .penalty ++ (List.range (ecMax + 1)).map .gen

/-- The offset of M[0] in the host space (10_state.md R22). -/
def windowBase : Nat := 0x10000

/-- What a host access of a given offset and width reaches (20_memory.md R60). -/
inductive HostTarget where
  /-- A register, read or written whole (20_memory.md R65). -/
  | register (r : HostReg)
  /-- The byte M[a] (20_memory.md R64). -/
  | byte (a : Nat)
  /-- Nothing QRCORE defines (10_state.md R35, 20_memory.md R64, R65). -/
  | bad
  deriving DecidableEq, Repr

/-- The target of an access (10_state.md R22, R35, 20_memory.md R64, R65). -/
def hostTarget (p : Params) (offset width : Nat) : HostTarget :=
  if windowBase ≤ offset then
    if offset - windowBase < p.memSize ∧ width = 8 then .byte (offset - windowBase) else .bad
  else if width = 32 then
    match (hostRegs p.ecMax).find? fun r => r.offset == offset with
    | some r => .register r
    | none => .bad
  else .bad

/-- What a register reads as; unused bits read 0 (10_state.md R22, R30, R36). -/
def State.readReg (s : State) : HostReg → Word
  | .cmd => s.cmd
  | .status => s.status
  | .arg0 => s.arg0
  | .arg1 => s.arg1
  | .arg2 => s.arg2
  | .res0 => s.res0
  | .res1 => s.res1
  | .version => s.version.setWidth 32
  | .ecLevel => s.ecLevel.setWidth 32
  | .bsBase => s.bsBase
  | .bsLen => s.bsLen
  | .genLen => s.genLen.setWidth 32
  | .mask => s.mask.setWidth 32
  | .modCount => s.modCount.setWidth 32
  | .mtxState => s.mtxState.code.setWidth 32
  | .penalty m => s.penalty.toList.getD m 0
  | .gen j => if j ≤ s.genLen.toNat then (s.gen.getD j 0).setWidth 32 else 0

/-- Command issue (40_control.md R120): CMD and PENDING take the word and BUSY becomes 1. -/
def State.issue (s : State) (w : Word) : State := { s with cmd := w, pending := w, busy := true }

/-- What a host write does: a CMD write issues a command, a BS_BASE write also clears BS_LEN, unused bits are discarded and a
read-only register is not changed (10_state.md R28, R36, 20_memory.md R72). -/
def State.writeReg (s : State) (r : HostReg) (w : Word) : State :=
  match r with
  | .cmd => s.issue w
  | .arg0 => { s with arg0 := w }
  | .arg1 => { s with arg1 := w }
  | .arg2 => { s with arg2 := w }
  | .version => { s with version := w.setWidth 6 }
  | .ecLevel => { s with ecLevel := w.setWidth 2 }
  | .bsBase => { s with bsBase := w, bsLen := 0 }
  | .status | .res0 | .res1 | .bsLen | .genLen | .mask | .modCount | .mtxState | .penalty _ | .gen _ => s

/-- A host access while BUSY = 0 (10_state.md R35, R36, 20_memory.md R64, R65). -/
def State.idleAccess (s : State) : HostAccess → State
  | .read offset width =>
    match hostTarget s.params offset width with
    | .register r => { s with lastRead := some (s.readReg r) }
    | .byte a =>
      match s.mem.read a with
      | some b => { s with lastRead := some (b.setWidth 32) }
      | none => s.recordFault (.uninitRead a)
    | .bad => s.recordFault (.hostBadAccess offset width)
  | .write offset width value =>
    match hostTarget s.params offset width with
    | .register r => s.writeReg r value
    | .byte a => { s with mem := s.mem.write a (value.setWidth 8) }
    | .bad => s.recordFault (.hostBadAccess offset width)

/-- The byte offset of a host access. -/
def HostAccess.offset : HostAccess → Nat
  | .read offset _ => offset
  | .write offset _ _ => offset

/-- The width in bits of a host access. -/
def HostAccess.width : HostAccess → Nat
  | .read _ width => width
  | .write _ width _ => width

/-- A host access. While BUSY = 1 only a 32-bit read of STATUS is defined, and every other access, defined or not, is the
fault HostHazard (70_reset_and_hazards.md R340; log entry 13). -/
def State.hostAccess (s : State) (a : HostAccess) : State :=
  if s.busy = true ∧ a ≠ .read HostReg.status.offset 32 then s.recordFault (.hostHazard a.offset)
  else s.idleAccess a

/-! The host program (30_encoding.md R99). -/

/-- The host program with these steps still to make. -/
def State.withProgram (s : State) (p : List HostStep) : State := { s with program := p }

/-- RD STATUS, defined whatever BUSY is (70_reset_and_hazards.md R340). -/
def State.readStatus (s : State) : State := s.hostAccess (.read HostReg.status.offset 32)

/-- WAIT leaves its loop when the STATUS it read has BUSY = 0. -/
def State.waitOver (s : State) : Bool :=
  match s.lastRead with
  | some w => !w.getLsbD 0
  | none => false

/-- CHECK passes when the STATUS it read has ERR = 0. -/
def State.checkPasses (s : State) : Bool :=
  match s.lastRead with
  | some w => w.extractLsb' 8 8 == 0
  | none => false

/-- The program ends with the ERR of the STATUS it read. -/
def State.endProgram (s : State) : State :=
  { s with program := [], programError := s.lastRead.map fun w => w.extractLsb' 8 8 }

/-- The next step of the host program; nothing when there is none. 60_exceptions.md R306 says of a fault that no other state
changes and that the host stops at the access. An access that faults is nevertheless taken off the program, as one that does
not (DESIGN CHOICE, safe: log entry 15); the host makes no further step, since FAULT is recorded. -/
def State.programStep (s : State) : State :=
  match s.program with
  | [] => s
  | .access a :: rest => (s.withProgram rest).hostAccess a
  | .wait :: rest => if s.readStatus.waitOver then s.readStatus.withProgram rest else s.readStatus
  | .check :: rest => if s.readStatus.checkPasses then s.readStatus.withProgram rest else s.readStatus.endProgram

/-- The reset input (70_reset_and_hazards.md R330), also while BUSY = 1: every piece of state takes its reset value, but FAULT
keeps what it holds. The instance's parameters, the turns to come and what the host has read, runs and ended with are not
QRCORE's state (log entry 9). -/
def State.resetInput (s : State) : State :=
  { State.resetOf s.params with
    fault := s.fault
    schedule := s.schedule
    lastRead := s.lastRead
    program := s.program
    programError := s.programError }

end Sys2Proof.Machine
end

