-- ==== Sys2Proof/Machine/Control.lean ====
section
/-! DEFINITION. The control unit: NOP (40_control.md R122). -/

namespace Sys2Proof.Machine

open Sys2Proof

/-- NOP (40_control.md R122): no effect but the completion, which clears ERR. -/
def execNop (s : State) : Host.Outcome State Fault Refusal :=
  finish s (.ok s)

end Sys2Proof.Machine
end

