-- ==== Sys2Proof/Machine/Bch.lean ====
section
/-! DEFINITION. The BCH unit (43_bch.md): the format word, the version word, BCH_FMT and BCH_VER. -/

namespace Sys2Proof.Machine

open Sys2Proof

/-- Digit(x): the number of significant bits (43_bch.md R180). -/
def digit (x : Nat) : Nat := if x = 0 then 0 else Nat.log2 x + 1

/-- The loop of BCHRem (43_bch.md R180). Each pass clears the highest bit of d, so Digit(d) passes are enough. -/
def bchRemLoop (g : Nat) : Nat → Nat → Nat
  | 0, d => d
  | fuel + 1, d =>
    if digit d < digit g then d
    else bchRemLoop g fuel (d ^^^ (g <<< (digit d - digit g)))

/-- BCHRem(d, G) (43_bch.md R180). -/
def bchRem (d g : Nat) : Nat := bchRemLoop g (digit d) d

/-- FormatWord(E, M) (43_bch.md R181). -/
def formatWord (e : BitVec 2) (m : BitVec 3) : Nat :=
  let data := (e.toNat <<< 3) ||| m.toNat
  ((data <<< 10) ||| bchRem (data <<< 10) Config.formatGenerator) ^^^ Config.formatMask

/-- VersionWord(V) (43_bch.md R182). -/
def versionWord (v : Nat) : Nat :=
  (v <<< 12) ||| bchRem (v <<< 12) Config.versionGenerator

/-- BCH_FMT (43_bch.md R183): RES0 := FormatWord(E, M). -/
def execBchFmt (e : BitVec 2) (m : BitVec 3) (s : State) : Host.Outcome State Fault Refusal :=
  finish s (.ok { s with res0 := result (formatWord e m) })

/-- BCH_VER (43_bch.md R184): RES0 := VersionWord(V), for every 6-bit V. -/
def execBchVer (v : BitVec 6) (s : State) : Host.Outcome State Fault Refusal :=
  finish s (.ok { s with res0 := result (versionWord v.toNat) })

end Sys2Proof.Machine
end

