-- ==== Sys2Proof/Machine/Matrix.lean ====
section
/-! DEFINITION. The matrix layout engine (45_matrix.md): the six placement steps, Render, and MX_BUILD, MX_GET. -/

namespace Sys2Proof.Machine

open Sys2Proof

/-- N = 4·v + 17 (45_matrix.md R240). -/
def sideOf (v : Nat) : Nat := 4 * v + 17

/-- One cell to be written: row, column, dark. -/
abbrev CellWrite := Nat × Nat × Bool

/-- Put each cell in order (45_matrix.md R241). -/
def putAll (g : Grid) (ws : List CellWrite) : Grid :=
  ws.foldl (fun g w => g.put w.1 w.2.1 w.2.2) g

/-- PutIfUnset each cell in order (45_matrix.md R241). -/
def putAllIfUnset (g : Grid) (ws : List CellWrite) : Grid :=
  ws.foldl (fun g w => g.putIfUnset w.1 w.2.1 w.2.2) g

/-- The integers lo, lo + 1, …, n of them. -/
def intsFrom (lo : Int) (n : Nat) : List Int := (List.range n).map fun i => lo + i

/-! Step 1: finder patterns and separators (45_matrix.md R242). -/

/-- Whether the cell at (dr, dc) from a finder's corner is dark (45_matrix.md R242). -/
def finderDark (dr dc : Int) : Bool :=
  (0 ≤ dr && dr ≤ 6 && (dc == 0 || dc == 6)) ||
  (0 ≤ dc && dc ≤ 6 && (dr == 0 || dr == 6)) ||
  (2 ≤ dr && dr ≤ 4 && 2 ≤ dc && dc ≤ 4)

/-- The writes of one finder pattern with its separator, in bounds (45_matrix.md R242). -/
def finderWrites (n r0 c0 : Nat) : List CellWrite :=
  (intsFrom (-1) 9).flatMap fun (dr : Int) => (intsFrom (-1) 9).flatMap fun (dc : Int) =>
    let r := (r0 : Int) + dr
    let c := (c0 : Int) + dc
    if 0 ≤ r ∧ r < n ∧ 0 ≤ c ∧ c < n then [(r.toNat, c.toNat, finderDark dr dc)] else []

/-- Step 1 (45_matrix.md R242). -/
def placeFinders (n : Nat) (g : Grid) : Grid :=
  putAll g (finderWrites n 0 0 ++ finderWrites n 0 (n - 7) ++ finderWrites n (n - 7) 0)

/-! Step 2: alignment patterns (45_matrix.md R243, R244). -/

/-- ALIGN(v) (45_matrix.md R243). -/
def alignPositions (v : Nat) : List Nat :=
  match v with
  | 1 => []
  | 2 => [6, 18]
  | 3 => [6, 22]
  | 4 => [6, 26]
  | 5 => [6, 30]
  | 6 => [6, 34]
  | 7 => [6, 22, 38]
  | 8 => [6, 24, 42]
  | 9 => [6, 26, 46]
  | 10 => [6, 28, 50]
  | 11 => [6, 30, 54]
  | 12 => [6, 32, 58]
  | 13 => [6, 34, 62]
  | 14 => [6, 26, 46, 66]
  | 15 => [6, 26, 48, 70]
  | 16 => [6, 26, 50, 74]
  | 17 => [6, 30, 54, 78]
  | 18 => [6, 30, 56, 82]
  | 19 => [6, 30, 58, 86]
  | 20 => [6, 34, 62, 90]
  | 21 => [6, 28, 50, 72, 94]
  | 22 => [6, 26, 50, 74, 98]
  | 23 => [6, 30, 54, 78, 102]
  | 24 => [6, 28, 54, 80, 106]
  | 25 => [6, 32, 58, 84, 110]
  | 26 => [6, 30, 58, 86, 114]
  | 27 => [6, 34, 62, 90, 118]
  | 28 => [6, 26, 50, 74, 98, 122]
  | 29 => [6, 30, 54, 78, 102, 126]
  | 30 => [6, 26, 52, 78, 104, 130]
  | 31 => [6, 30, 56, 82, 108, 134]
  | 32 => [6, 34, 60, 86, 112, 138]
  | 33 => [6, 30, 58, 86, 114, 142]
  | 34 => [6, 34, 62, 90, 118, 146]
  | 35 => [6, 30, 54, 78, 102, 126, 150]
  | 36 => [6, 24, 50, 76, 102, 128, 154]
  | 37 => [6, 28, 54, 80, 106, 132, 158]
  | 38 => [6, 32, 58, 84, 110, 136, 162]
  | 39 => [6, 26, 54, 82, 110, 138, 166]
  | 40 => [6, 30, 58, 86, 114, 142, 170]
  | _ => []

/-- The writes of one 5×5 alignment pattern: ring and centre dark (45_matrix.md R244). -/
def alignmentWrites (r0 c0 : Nat) : List CellWrite :=
  (intsFrom (-2) 5).flatMap fun (dr : Int) => (intsFrom (-2) 5).map fun (dc : Int) =>
    (((r0 : Int) + dr).toNat, ((c0 : Int) + dc).toNat,
      dr.natAbs == 2 || dc.natAbs == 2 || (dr == 0 && dc == 0))

/-- One alignment pattern, skipped whole when its centre is already set (45_matrix.md R244, C3). -/
def placeAlignment (g : Grid) (centre : Nat × Nat) : Grid :=
  if g.get centre.1 centre.2 = .unset then putAll g (alignmentWrites centre.1 centre.2) else g

/-- The pairs of ALIGN(v), row by row. -/
def alignmentCentres (v : Nat) : List (Nat × Nat) :=
  (alignPositions v).flatMap fun r0 => (alignPositions v).map fun c0 => (r0, c0)

/-- Step 2 (45_matrix.md R244). -/
def placeAlignments (v : Nat) (g : Grid) : Grid :=
  (alignmentCentres v).foldl placeAlignment g

/-! Step 3: timing patterns (45_matrix.md R245). -/

/-- Step 3 (45_matrix.md R245). -/
def placeTiming (n : Nat) (g : Grid) : Grid :=
  putAllIfUnset g ((List.range n).flatMap fun i => [(6, i, i % 2 == 0), (i, 6, i % 2 == 0)])

/-! Step 4: format information and the fixed module (45_matrix.md R246, R247). -/

/-- VPos(i), the copy along column 8 (45_matrix.md R246). -/
def formatVPos (n i : Nat) : Nat × Nat :=
  if i ≤ 5 then (i, 8) else if i ≤ 7 then (i + 1, 8) else (n - 15 + i, 8)

/-- HPos(i), the copy along row 8 (45_matrix.md R246). -/
def formatHPos (n i : Nat) : Nat × Nat :=
  if i ≤ 7 then (8, n - 1 - i) else if i = 8 then (8, 7) else (8, 14 - i)

/-- The writes of step 4: bit i of word at both of its places, 0 in a test render (45_matrix.md R246, R250). -/
def formatWrites (n word : Nat) (test : Bool) : List CellWrite :=
  (List.range 15).flatMap fun i =>
    let b := !test && word.testBit i
    [((formatVPos n i).1, (formatVPos n i).2, b), ((formatHPos n i).1, (formatHPos n i).2, b)]

/-- Step 4 with the fixed module at (N−8, 8), dark in a final render (45_matrix.md R246, R247). -/
def placeFormat (n word : Nat) (test : Bool) (g : Grid) : Grid :=
  (putAll g (formatWrites n word test)).put (n - 8) 8 (!test)

/-! Step 5: version information (45_matrix.md R248). -/

/-- The writes of step 5: bit i of word in both blocks, 0 in a test render (45_matrix.md R248, R250). -/
def versionWrites (n word : Nat) (test : Bool) : List CellWrite :=
  (List.range 18).flatMap fun i =>
    let y := !test && word.testBit i
    [(i / 3, n - 11 + i % 3, y), (n - 11 + i % 3, i / 3, y)]

/-- Step 5, for versions from 7 (45_matrix.md R248). -/
def placeVersion (v : Nat) (test : Bool) (g : Grid) : Grid :=
  if 7 ≤ v then putAll g (versionWrites (sideOf v) (versionWord v) test) else g

/-- Steps 1 to 5: the function modules of a render (45_matrix.md R242 to R248). -/
def functionGrid (v : Nat) (e : BitVec 2) (m : BitVec 3) (test : Bool) : Grid :=
  let n := sideOf v
  placeVersion v test <| placeFormat n (formatWord e m) test <| placeTiming n <|
    placeAlignments v <| placeFinders n Grid.unset

/-! Step 6: data placement (45_matrix.md R249). -/

/-- MaskF(m, i, j), i the row and j the column (45_matrix.md R252). -/
def maskF (m : BitVec 3) (i j : Nat) : Bool :=
  match m.toNat with
  | 0 => (i + j) % 2 == 0
  | 1 => i % 2 == 0
  | 2 => j % 3 == 0
  | 3 => (i + j) % 3 == 0
  | 4 => (i / 2 + j / 3) % 2 == 0
  | 5 => (i * j) % 2 + (i * j) % 3 == 0
  | 6 => ((i * j) % 2 + (i * j) % 3) % 2 == 0
  | _ => ((i * j) % 3 + (i + j) % 2) % 2 == 0

/-- The right column of the p-th column pair: N−1, N−3, …, and one less from 6 down, so that column 6 is in no pair
(45_matrix.md R249). -/
def pairColumn (n p : Nat) : Nat :=
  let col := n - 1 - 2 * p
  if col ≤ 6 then col - 1 else col

/-- The rows of the p-th pair in the order they are visited: the first pair goes up, and the direction turns at every edge
(45_matrix.md R249). -/
def pairRows (n p : Nat) : List Nat :=
  if p % 2 = 0 then (List.range n).reverse else List.range n

/-- The cells in the order of the zig-zag traversal: the right column before the left one in each row (45_matrix.md R249). -/
def zigzag (n : Nat) : List (Nat × Nat) :=
  (List.range ((n - 1) / 2)).flatMap fun p =>
    (pairRows n p).flatMap fun row => [(row, pairColumn n p), (row, pairColumn n p - 1)]

/-- Data bit k of the codewords, MSB first; 0 beyond them (45_matrix.md R249, 20_memory.md R67). -/
def codewordBit (cw : List Byte) (k : Nat) : Bool :=
  if k / 8 < cw.length then (cw.getD (k / 8) 0).getMsbD (k % 8) else false

/-- One visit of the traversal: an unset cell takes the next bit, flipped where the mask holds (45_matrix.md R249). The
number beside the grid is k. -/
def placeBit (cw : List Byte) (m : BitVec 3) (acc : Grid × Nat) (cell : Nat × Nat) : Grid × Nat :=
  if acc.1.get cell.1 cell.2 = .unset then
    (acc.1.put cell.1 cell.2 (codewordBit cw acc.2 ^^ maskF m cell.1 cell.2), acc.2 + 1)
  else acc

/-- Step 6 (45_matrix.md R249): the grid, and the number of data bits placed. -/
def placeData (n : Nat) (cw : List Byte) (m : BitVec 3) (g : Grid) : Grid × Nat :=
  (zigzag n).foldl (placeBit cw m) (g, 0)

/-- Render(v, E, cw, m, t) (45_matrix.md R251). Cells outside the N × N part stay unset (10_state.md R39). -/
def render (v : Nat) (e : BitVec 2) (cw : List Byte) (m : BitVec 3) (test : Bool) : Grid :=
  (placeData (sideOf v) cw m (functionGrid v e m test)).1

/-- The cells of the N × N part, row by row. -/
def cellsOf (n : Nat) (g : Grid) : List MtxCell :=
  (List.range n).flatMap fun r => (List.range n).map fun c => g.get r c

/-- DM(v): the cells steps 1 to 5 leave unset (45_matrix.md R258). -/
def dataModules (v : Nat) : Nat :=
  (cellsOf (sideOf v) (functionGrid v 0 0 false)).count .unset

/-! The commands. -/

/-- The effect of a matrix on its registers (45_matrix.md R254, 46_mask.md R286). -/
def State.withMatrix (s : State) (g : Grid) (m : BitVec 3) (state : MtxState) : State :=
  { s with mtx := g, mask := m, modCount := .ofNat 8 (sideOf s.v), mtxState := state }

/-- MX_BUILD (45_matrix.md R254). -/
def execMxBuild (m : BitVec 3) (t : BitVec 1) (s : State) : Host.Outcome State Fault Refusal :=
  finish s <|
    if s.versionIllegal then .err .invalidParameter
    else if s.outside s.argA s.argB then .err .addressError
    else
      match s.mem.readBytes s.argA s.argB with
      | .error a => .fault (.uninitRead a)
      | .ok cw =>
        if dataModules s.v < 8 * s.argB then .err .capacityExceeded
        else .ok { s.withMatrix (render s.v s.ecLevel cw m (t == 1)) m (if t = 1 then .test else .final) with
          res0 := result (sideOf s.v)
          res1 := result (dataModules s.v) }

/-- MX_GET (45_matrix.md R255). -/
def execMxGet (s : State) : Host.Outcome State Fault Refusal :=
  finish s <|
    if s.mtxState = .none then .err .notReady
    else if s.modCount.toNat ≤ s.argA ∨ s.modCount.toNat ≤ s.argB then .err .outOfRange
    else .ok { s with res0 := if s.mtx.get s.argA s.argB = .dark then 1 else 0 }

end Sys2Proof.Machine
end

