-- ==== Sys2Proof/Machine/Mask.lean ====
section
/-! DEFINITION. The mask scorer (46_mask.md): the four penalty rules, MX_SCORE and MX_MAKE.

The penalty reads a resolved matrix; a cell counts as 1 when it is dark and as 0 otherwise. A run reaches the scorer only with
resolved cells (45_matrix.md R257; log entry 11). -/

namespace Sys2Proof.Machine

open Sys2Proof

/-- Row r of the N × N part, left to right, dark = true (46_mask.md §1). -/
def gridRow (g : Grid) (n r : Nat) : List Bool := (List.range n).map fun c => g.get r c == .dark

/-- Column c of the N × N part, top to bottom. -/
def gridColumn (g : Grid) (n c : Nat) : List Bool := (List.range n).map fun r => g.get r c == .dark

/-- The 2N lines (46_mask.md §1). -/
def gridLines (g : Grid) (n : Nat) : List (List Bool) :=
  (List.range n).map (gridRow g n) ++ (List.range n).map (gridColumn g n)

/-- The lengths of the maximal runs of a line, given the colour and the length so far of the run being read. -/
def runsFrom (colour : Bool) (len : Nat) : List Bool → List Nat
  | [] => [len]
  | x :: xs => if x = colour then runsFrom colour (len + 1) xs else len :: runsFrom x 1 xs

/-- The lengths of the maximal runs of a line (46_mask.md R280). -/
def runLengths : List Bool → List Nat
  | [] => []
  | x :: xs => runsFrom x 1 xs

/-- The score of one run: 3 + (L − 5) from length 5 (46_mask.md R280). -/
def runScore (len : Nat) : Nat := if 5 ≤ len then 3 + (len - 5) else 0

/-- PenA (46_mask.md R280). -/
def penA (lines : List (List Bool)) : Nat :=
  (lines.map fun l => ((runLengths l).map runScore).sum).sum

/-- The 2×2 blocks of one colour between two neighbouring rows. -/
def blocksBetween : List Bool → List Bool → Nat
  | a :: b :: upper, c :: d :: lower =>
    (if a = b ∧ a = c ∧ a = d then 1 else 0) + blocksBetween (b :: upper) (d :: lower)
  | _, _ => 0

/-- The 2×2 blocks of one colour (46_mask.md R281). -/
def blockCount : List (List Bool) → Nat
  | upper :: lower :: rest => blocksBetween upper lower + blockCount (lower :: rest)
  | _ => 0

/-- PenB (46_mask.md R281). -/
def penB (rows : List (List Bool)) : Nat := 3 * blockCount rows

/-- P7 = dark, light, dark, dark, dark, light, dark (46_mask.md R282). -/
def finderWindow : List Bool := [true, false, true, true, true, false, true]

/-- The window positions of a line that equal P7 (46_mask.md R282). -/
def windowCount : List Bool → Nat
  | [] => 0
  | x :: xs => (if finderWindow.isPrefixOf (x :: xs) then 1 else 0) + windowCount xs

/-- PenC (46_mask.md R282). -/
def penC (lines : List (List Bool)) : Nat := 40 * (lines.map windowCount).sum

/-- D, the number of dark cells of the N × N part (46_mask.md R283). -/
def darkCount (n : Nat) (g : Grid) : Nat := (cellsOf n g).count .dark

/-- PenD = 10 · (|20·D − 10·T| div T), T = N² (46_mask.md R283). -/
def penD (n dark : Nat) : Nat := 10 * (((20 * dark : Int) - 10 * (n * n)).natAbs / (n * n))

/-- Penalty(X) for the N × N part of a grid (46_mask.md R284). -/
def penalty (n : Nat) (g : Grid) : Nat :=
  let rows := (List.range n).map (gridRow g n)
  let lines := gridLines g n
  penA lines + penB rows + penC lines + penD n (darkCount n g)

/-- The penalty of the test render with mask m (46_mask.md R286). -/
def trialPenalty (v : Nat) (e : BitVec 2) (cw : List Byte) (m : BitVec 3) : Nat :=
  penalty (sideOf v) (render v e cw m true)

/-- The position of the least element, the first of equals. -/
def leastIndex : List Nat → Nat
  | [] => 0
  | [_] => 0
  | x :: y :: rest =>
    let k := leastIndex (y :: rest)
    if x ≤ (y :: rest).getD k 0 then 0 else k + 1

/-- The eight penalties P[0..7] (46_mask.md R286). -/
def trialPenalties (v : Nat) (e : BitVec 2) (cw : List Byte) : List Nat :=
  (List.range 8).map fun m => trialPenalty v e cw (.ofNat 3 m)

/-- MX_SCORE (46_mask.md R285). -/
def execMxScore (s : State) : Host.Outcome State Fault Refusal :=
  finish s <|
    if s.mtxState = .none then .err .notReady
    else .ok { s with
      res0 := result (penalty s.modCount.toNat s.mtx)
      res1 := result (darkCount s.modCount.toNat s.mtx) }

/-- MX_MAKE (46_mask.md R286). -/
def execMxMake (s : State) : Host.Outcome State Fault Refusal :=
  finish s <|
    if s.versionIllegal then .err .invalidParameter
    else if s.outside s.argA s.argB then .err .addressError
    else
      match s.mem.readBytes s.argA s.argB with
      | .error a => .fault (.uninitRead a)
      | .ok cw =>
        if dataModules s.v < 8 * s.argB then .err .capacityExceeded
        else
          let ps := trialPenalties s.v s.ecLevel cw
          let best := leastIndex ps
          .ok { s.withMatrix (render s.v s.ecLevel cw (.ofNat 3 best) false) (.ofNat 3 best) .final with
            penalty := Vector.ofFn fun m => result (ps.getD m.val 0)
            res0 := result best
            res1 := result (ps.getD best 0) }

end Sys2Proof.Machine
end

