-- ==== Sys2Proof/Machine/Packer.lean ====
section
/-! DEFINITION. The bit-stream packer (44_packer.md): the stream in M, the payloads of the four modes, SegPack, and the
commands BS_CLEAR, BS_PUT, SEG_NUM, SEG_ALNUM, SEG_BYTE, SEG_KANJI and BS_FINAL. -/

namespace Sys2Proof.Machine

open Sys2Proof

/-! The bit stream (44_packer.md R200 to R202). -/

/-- bits(v, w): the low w bits of v, most significant first (44_packer.md R202). -/
def bits (v w : Nat) : List Bool := (List.range w).map fun i => v.testBit (w - 1 - i)

/-- The byte whose bit 7 − i is f i (44_packer.md R200). -/
def byteOfBits (f : Nat → Bool) : Byte :=
  BitVec.ofBoolListBE [f 0, f 1, f 2, f 3, f 4, f 5, f 6, f 7]

/-- What WriteBits puts at bit position q of the stream: a bit of S, or 0 after it; below p0, the old bit of the partial
byte first (44_packer.md R201). -/
def streamBit (p0 : Nat) (bs : List Bool) (old : Byte) (q : Nat) : Bool :=
  if p0 ≤ q ∧ q < p0 + bs.length then bs.getD (q - p0) false
  else if p0 + bs.length ≤ q then false
  else if q / 8 = p0 / 8 then old.getMsbD (q % 8)
  else false

/-- The bytes first .. last that WriteBits writes (44_packer.md R201). -/
def streamBytes (p0 : Nat) (bs : List Bool) (old : Byte) : List Byte :=
  (List.range ((p0 + bs.length - 1) / 8 - p0 / 8 + 1)).map fun k =>
    byteOfBits fun i => streamBit p0 bs old (8 * (p0 / 8 + k) + i)

/-- The partial byte read before any write: 0x00 when the stream ends at a byte boundary (44_packer.md R201). The error is
the address of an undefined byte. -/
def State.partialByte (s : State) : Except Nat Byte :=
  if s.bsLen.toNat % 8 = 0 then .ok 0
  else
    match s.mem.read (s.bsBase.toNat + s.bsLen.toNat / 8) with
    | some b => .ok b
    | none => .error (s.bsBase.toNat + s.bsLen.toNat / 8)

/-- WriteBits(S) (44_packer.md R201). The caller has checked the output region. -/
def State.writeBits (s : State) (bs : List Bool) : Except Nat State :=
  if bs.length = 0 then .ok s
  else
    match s.partialByte with
    | .error a => .error a
    | .ok old => .ok { s with
        mem := s.mem.writeBytes (s.bsBase.toNat + s.bsLen.toNat / 8) (streamBytes s.bsLen.toNat bs old)
        bsLen := .ofNat 32 (s.bsLen.toNat + bs.length) }

/-- n more bits end outside M: BS_BASE + ceil((BS_LEN + n) / 8) exceeds MEM_SIZE (44_packer.md R209, R211). -/
abbrev State.streamOutside (s : State) (n : Nat) : Prop :=
  s.outside s.bsBase.toNat (bytesFor (s.bsLen.toNat + n))

/-! Segments (44_packer.md R203 to R208, R218, R219). -/

/-- The four segment modes. -/
inductive Mode where
  | numeric | alphanumeric | byte | kanji
  deriving DecidableEq, Repr

/-- The mode indicators (44_packer.md R203). -/
def modeIndicator : Mode → Nat
  | .numeric => 0b0001
  | .alphanumeric => 0b0010
  | .byte => 0b0100
  | .kanji => 0b1000

/-- W(mode, v), the width of the length indicator, in the bands 1–9, 10–26 and 27–40 (44_packer.md R204). -/
def lengthWidth (mode : Mode) (v : Nat) : Nat :=
  match mode with
  | .numeric => if v ≤ 9 then 10 else if v ≤ 26 then 12 else 14
  | .alphanumeric => if v ≤ 9 then 9 else if v ≤ 26 then 11 else 13
  | .byte => if v ≤ 9 then 8 else 16
  | .kanji => if v ≤ 9 then 8 else if v ≤ 26 then 10 else 12

/-- A code for every character of the list, or none when one is unsupported. -/
def codesOf (code : Byte → Option Nat) : List Byte → Option (List Nat)
  | [] => some []
  | b :: rest =>
    match code b, codesOf code rest with
    | some c, some cs => some (c :: cs)
    | _, _ => none

/-- The value of an ASCII digit (44_packer.md R205). -/
def digitCode (b : Byte) : Option Nat :=
  if 0x30 ≤ b.toNat ∧ b.toNat ≤ 0x39 then some (b.toNat - 0x30) else none

/-- NumPayload: groups of three in 10 bits, a last two in 7, a last one in 4 (44_packer.md R205). -/
def numPayload : List Nat → List Bool
  | a :: b :: c :: rest => bits (a * 100 + b * 10 + c) 10 ++ numPayload rest
  | [a, b] => bits (a * 10 + b) 7
  | [a] => bits a 4
  | [] => []

/-- The alphanumeric code of an ASCII byte (44_packer.md R206). -/
def alnumCode (b : Byte) : Option Nat :=
  let n := b.toNat
  if 0x30 ≤ n ∧ n ≤ 0x39 then some (n - 0x30)
  else if 0x41 ≤ n ∧ n ≤ 0x5A then some (n - 0x41 + 10)
  else if n = 0x20 then some 36
  else if n = 0x24 then some 37
  else if n = 0x25 then some 38
  else if n = 0x2A then some 39
  else if n = 0x2B then some 40
  else if n = 0x2D then some 41
  else if n = 0x2E then some 42
  else if n = 0x2F then some 43
  else if n = 0x3A then some 44
  else none

/-- AlnumPayload: pairs in 11 bits, a last one in 6 (44_packer.md R207). -/
def alnumPayload : List Nat → List Bool
  | a :: b :: rest => bits (a * 45 + b) 11 ++ alnumPayload rest
  | [a] => bits a 6
  | [] => []

/-- The bytes as they are, 8 bits each (44_packer.md R208). -/
def bytePayload (src : List Byte) : List Bool := src.flatMap fun b => bits b.toNat 8

/-- KanjiValue(c) (44_packer.md R218). -/
def kanjiValue (c : Nat) : Option Nat :=
  let trail := c % 256
  let rebased (t : Nat) : Nat := (t / 256) * 0xC0 + t % 256
  if trail < 0x40 ∨ 0xFC < trail then none
  else if 0x8140 ≤ c ∧ c ≤ 0x9FFC then some (rebased (c - 0x8140))
  else if 0xE040 ≤ c ∧ c ≤ 0xEBBF then some (rebased (c - 0xC140))
  else none

/-- 13 bits per double-byte character, lead byte first; none for an odd length or an unsupported code
(44_packer.md R219, 20_memory.md R68). -/
def kanjiPayload : List Byte → Option (List Bool)
  | [] => some []
  | [_] => none
  | lead :: trail :: rest =>
    match kanjiValue (lead.toNat * 256 + trail.toNat), kanjiPayload rest with
    | some v, some bs => some (bits v 13 ++ bs)
    | _, _ => none

/-- The payload of a mode, or none when a character is unsupported (44_packer.md R205 to R208, R219). -/
def payload (mode : Mode) (src : List Byte) : Option (List Bool) :=
  match mode with
  | .numeric => (codesOf digitCode src).map numPayload
  | .alphanumeric => (codesOf alnumCode src).map alnumPayload
  | .byte => some (bytePayload src)
  | .kanji => kanjiPayload src

/-- The character count of L source bytes (44_packer.md R209). -/
def charCount (mode : Mode) (len : Nat) : Nat :=
  match mode with
  | .kanji => len / 2
  | .numeric | .alphanumeric | .byte => len

/-- The bit string of a segment: mode indicator, count, payload (44_packer.md R209). -/
def segmentBits (mode : Mode) (v count : Nat) (body : List Bool) : List Bool :=
  bits (modeIndicator mode) 4 ++ bits count (lengthWidth mode v) ++ body

/-- SegPack(mode), the checks in the order R209 lists them. -/
def segPack (mode : Mode) (s : State) : Execution :=
  if s.versionIllegal then .err .invalidParameter
  else if s.outside s.argA s.argB then .err .addressError
  else
    match s.mem.readBytes s.argA s.argB with
    | .error a => .fault (.uninitRead a)
    | .ok src =>
      match payload mode src with
      | none => .err .unsupportedCharacter
      | some body =>
        let n := charCount mode s.argB
        if 2 ^ lengthWidth mode s.v ≤ n then .err .capacityExceeded
        else
          let bs := segmentBits mode s.v n body
          if s.streamOutside bs.length then .err .addressError
          else
            match s.writeBits bs with
            | .error a => .fault (.uninitRead a)
            | .ok t => .ok { t with res0 := result bs.length, res1 := result n }

/-! The commands. -/

/-- BS_CLEAR (44_packer.md R210). -/
def execBsClear (s : State) : Host.Outcome State Fault Refusal :=
  finish s (.ok { s with bsLen := 0 })

/-- BS_PUT (44_packer.md R211). -/
def execBsPut (s : State) : Host.Outcome State Fault Refusal :=
  finish s <|
    if 32 < s.argB then .err .invalidParameter
    else if s.streamOutside s.argB then .err .addressError
    else
      match s.writeBits (bits s.argA s.argB) with
      | .error a => .fault (.uninitRead a)
      | .ok t => .ok { t with res0 := t.bsLen }

/-- SEG_NUM (44_packer.md R212). -/
def execSegNum (s : State) : Host.Outcome State Fault Refusal := finish s (segPack .numeric s)

/-- SEG_ALNUM (44_packer.md R213). -/
def execSegAlnum (s : State) : Host.Outcome State Fault Refusal := finish s (segPack .alphanumeric s)

/-- SEG_BYTE (44_packer.md R214). -/
def execSegByte (s : State) : Host.Outcome State Fault Refusal := finish s (segPack .byte s)

/-- SEG_KANJI (44_packer.md R215). -/
def execSegKanji (s : State) : Host.Outcome State Fault Refusal := finish s (segPack .kanji s)

/-- The terminator bits of a stream of len bits and capacity c bytes: four or none (44_packer.md R216). -/
def terminatorBits (len c : Nat) : Nat := if len + 4 ≤ 8 * c then 4 else 0

/-- The zero bits from n to the byte boundary (44_packer.md R216). -/
def boundaryBits (n : Nat) : Nat := (8 - n % 8) % 8

/-- The pad bytes that fill the capacity (44_packer.md R216). -/
def padCount (len c : Nat) : Nat :=
  let t := terminatorBits len c
  (8 * c - (len + t + boundaryBits (len + t))) / 8

/-- p pad bytes, 0xEC and 0x11 in turn, starting with 0xEC (44_packer.md R216). -/
def padBits (p : Nat) : List Bool :=
  (List.range p).flatMap fun i => bits (if i % 2 = 0 then 0xEC else 0x11) 8

/-- The bits BS_FINAL appends (44_packer.md R216). -/
def finalBits (len c : Nat) : List Bool :=
  let t := terminatorBits len c
  bits 0 t ++ bits 0 (boundaryBits (len + t)) ++ padBits (padCount len c)

/-- BS_FINAL (44_packer.md R216). -/
def execBsFinal (s : State) : Host.Outcome State Fault Refusal :=
  finish s <|
    let c := s.argA
    let len := s.bsLen.toNat
    if 8 * c < len then .err .capacityExceeded
    else if s.outside s.bsBase.toNat c then .err .addressError
    else
      match s.writeBits (finalBits len c) with
      | .error a => .fault (.uninitRead a)
      | .ok t => .ok { t with
          res0 := result (padCount len c)
          res1 := result (terminatorBits len c) }

end Sys2Proof.Machine
end

