-- ==== Sys2Proof/Machine/Gf.lean ====
section
/-! DEFINITION. The GF(256) unit (41_gf.md): the EXP and LOG ROMs, the field product, and GF_EXP, GF_LOG, GF_MUL. -/

namespace Sys2Proof.Machine

open Sys2Proof

/-! The ROMs are written as the spec prints them: sixteen rows of sixteen bytes, row = high nibble, first byte = low nibble 0.
Laws/Rs.lean proves that they satisfy the recurrence of R140 and the inverse of R141. -/

/-- The rows of EXP (41_gf.md R140). -/
def expRow (high : Nat) : Nat :=
  match high with
  | 0 => 0x01020408102040801D3A74E8CD871326
  | 1 => 0x4C982D5AB475EAC98F03060C183060C0
  | 2 => 0x9D274E9C254A94356AD4B577EEC19F23
  | 3 => 0x468C050A142850A05DBA69D2B96FDEA1
  | 4 => 0x5FBE61C2992F5EBC65CA890F1E3C78F0
  | 5 => 0xFDE7D3BB6BD6B17FFEE1DFA35BB671E2
  | 6 => 0xD9AF4386112244880D1A3468D0BD67CE
  | 7 => 0x811F3E7CF8EDC7933B76ECC5973366CC
  | 8 => 0x85172E5CB86DDAA94F9E214284152A54
  | 9 => 0xA84D9A2952A455AA49923972E4D5B773
  | 10 => 0xE6D1BF63C6913F7EFCE5D7B37BF6F1FF
  | 11 => 0xE3DBAB4B963162C495376EDCA557AE41
  | 12 => 0x82193264C88D070E1C3870E0DDA753A6
  | 13 => 0x51A259B279F2F9EFC39B2B56AC458A09
  | 14 => 0x122448903D7AF4F5F7F3FBEBCB8B0B16
  | _ => 0x2C58B07DFAE9CF831B366CD8AD478E01

/-- The rows of LOG (41_gf.md R141). LOG[0] has no value ("--"): the 00 in its place is read by no rule (R144)
(DESIGN CHOICE, safe: log entry 11). -/
def logRow (high : Nat) : Nat :=
  match high with
  | 0 => 0x0000011902321AC603DF33EE1B68C74B
  | 1 => 0x0464E00E348DEF811CC169F8C8084C71
  | 2 => 0x058A652FE1240F2135938EDAF0128245
  | 3 => 0x1DB5C27D6A27F9B9C99A09784DE472A6
  | 4 => 0x06BF8B6266DD30FDE29825B310912288
  | 5 => 0x36D094CE8F96DBBDF1D2135C83384640
  | 6 => 0x1E42B6A3C3487E6E6B3A2854FA85BA3D
  | 7 => 0xCA5E9B9F0A15792B4ED4E5AC73F3A757
  | 8 => 0x0770C0F78C80630D674ADEED31C5FE18
  | 9 => 0xE3A5997726B8B47C114492D92320892E
  | 10 => 0x373FD15B95BCCFCD908797B2DCFCBE61
  | 11 => 0xF256D3AB142A5D9E843C3953476D41A2
  | 12 => 0x1F2D43D8B77BA476C41749EC7F0C6FF6
  | 13 => 0x6CA13B52299D55AAFB6086B1BBCC3E5A
  | 14 => 0xCB595FB09CA9A0510BF516EB7A752CD7
  | _ => 0x4FAED5E9E6E7ADE874D6F4EAA85058AF

/-- Byte low of a 16-byte ROM row, byte 0 the most significant. -/
def romByte (row low : Nat) : Byte := .ofNat 8 (row >>> (8 * (15 - low)))

/-- EXP[i] for i from 0 to 255 (41_gf.md R140). -/
def expRom (i : Nat) : Byte := romByte (expRow (i / 16)) (i % 16)

/-- LOG[a] for a from 1 to 255 (41_gf.md R141). -/
def logRom (a : Byte) : Nat := (romByte (logRow (a.toNat / 16)) (a.toNat % 16)).toNat

/-- gexp(n) = EXP[n mod 255] (41_gf.md R143). -/
def gexp (n : Nat) : Byte := expRom (n % 255)

/-- The field product: 0 for a zero operand, else the antilog of the sum of logs (41_gf.md R142). -/
def gfMul (a b : Byte) : Byte :=
  if a = 0 ∨ b = 0 then 0 else gexp (logRom a + logRom b)

/-- GF_EXP (41_gf.md R145): RES0 := EXP[A]. -/
def execGfExp (a : Byte) (s : State) : Host.Outcome State Fault Refusal :=
  finish s (.ok { s with res0 := (expRom a.toNat).setWidth 32 })

/-- GF_LOG (41_gf.md R146): RES0 := LOG[A], DOMAIN_ERROR for A = 0. -/
def execGfLog (a : Byte) (s : State) : Host.Outcome State Fault Refusal :=
  finish s <|
    if a = 0 then .err .domainError
    else .ok { s with res0 := result (logRom a) }

/-- GF_MUL (41_gf.md R147): RES0 := A ⊗ B. -/
def execGfMul (a b : Byte) (s : State) : Host.Outcome State Fault Refusal :=
  finish s (.ok { s with res0 := (gfMul a b).setWidth 32 })

end Sys2Proof.Machine
end

