-- ==== Sys2Proof/Machine/Rs.lean ====
section
/-! DEFINITION. The Reed–Solomon unit (42_rs.md): polynomials over GF(256), highest degree first, and RS_GEN, RS_DIV. -/

namespace Sys2Proof.Machine

open Sys2Proof

/-- strip(p): leading zero coefficients removed (42_rs.md R160). -/
def strip : List Byte → List Byte
  | [] => []
  | c :: p => if c = 0 then strip p else c :: p

/-- The convolution r[i+j] ⊕= p[i] ⊗ q[j] of R161, of length len(p) + len(q) − 1 for nonempty q: the leading coefficient's
product with q, and the product of the rest one place to its right, added by XOR. -/
def convolve : List Byte → List Byte → List Byte
  | [], q => List.replicate (q.length - 1) 0
  | c :: p, q =>
    List.zipWith (· ^^^ ·) (q.map (gfMul c) ++ List.replicate p.length 0) (0 :: convolve p q)

/-- PolyMul(p, q) (42_rs.md R161). -/
def polyMul (p q : List Byte) : List Byte := strip (convolve p q)

/-- One pass of R162 before the strip: the divisor scaled by s is added to the head of p. -/
def reduceHead (s : Byte) (p d : List Byte) : List Byte :=
  List.zipWith (fun x y => x ^^^ gfMul y s) p d ++ p.drop d.length

/-- The scale s of R162: p[0] over d[0]. Both are nonzero where the rules apply it (R166). -/
def leadScale (p d : List Byte) : Byte :=
  gexp ((logRom (p.headD 0) + 255 - logRom (d.headD 0)) % 255)

/-- The loop of R162, with passes bounded by fuel. len(p) falls with every pass, so len(p) passes are enough; a divisor with
d[0] = 0, which no run reaches, only ends the loop (log entry 11). -/
def polyModLoop (d : List Byte) : Nat → List Byte → List Byte
  | 0, p => p
  | fuel + 1, p =>
    if p.length < d.length then p
    else polyModLoop d fuel (strip (reduceHead (leadScale p d) p d))

/-- PolyMod(p, d) (42_rs.md R162). -/
def polyMod (p d : List Byte) : List Byte := polyModLoop d p.length (strip p)

/-- Gen(k), the product of the factors x + α^i for i from 0 to k−1 (42_rs.md R163). -/
def genPoly : Nat → List Byte
  | 0 => [1]
  | k + 1 => polyMul (genPoly k) [1, expRom k]

/-- The remainder of the data, shifted by k, right-aligned in k bytes (42_rs.md R165, R167). -/
def ecBytes (data : List Byte) (k : Nat) (g : List Byte) : List Byte :=
  let r := polyMod (data ++ List.replicate k 0) g
  let padded := List.replicate (k - r.length) 0 ++ r
  (List.range k).map fun i => padded.getD i 0

/-- RSRem(d, k) (42_rs.md R167). -/
def rsRem (data : List Byte) (k : Nat) : List Byte := ecBytes data k (genPoly k)

/-- RS_GEN (42_rs.md R164). -/
def execRsGen (k : Byte) (s : State) : Host.Outcome State Fault Refusal :=
  finish s <|
    if k = 0 ∨ s.params.ecMax < k.toNat then .err .invalidParameter
    else .ok { s with
      gen := (List.range (s.params.ecMax + 1)).map fun j =>
        if j ≤ k.toNat then (genPoly k.toNat).getD j 0 else 0
      genLen := k
      res0 := k.setWidth 32 }

/-- RS_DIV (42_rs.md R165). -/
def execRsDiv (s : State) : Host.Outcome State Fault Refusal :=
  finish s <|
    let k := s.genLen.toNat
    if k = 0 then .err .notReady
    else if s.outside s.argA s.argB ∨ s.outside s.argC k then .err .addressError
    else
      match s.mem.readBytes s.argA s.argB with
      | .error a => .fault (.uninitRead a)
      | .ok data => .ok { s with
          mem := s.mem.writeBytes s.argC (ecBytes data k (s.gen.take (k + 1)))
          res0 := s.genLen.setWidth 32 }

end Sys2Proof.Machine
end

