-- ==== Sys2Proof/Machine/Dispatch.lean ====
section
/-! DEFINITION. Which meaning each command has (40_control.md R123, 30_encoding.md R94). -/

namespace Sys2Proof.Machine

open Sys2Proof

/-- Execute a decoded command and complete it (40_control.md R121, R123). -/
def exec (i : Instr) (s : State) : Host.Outcome State Fault Refusal :=
  match i with
  | .nop => Sys2Proof.Machine.execNop s
  | .gfExp a => Sys2Proof.Machine.execGfExp a s
  | .gfLog a => Sys2Proof.Machine.execGfLog a s
  | .gfMul a b => Sys2Proof.Machine.execGfMul a b s
  | .rsGen k => Sys2Proof.Machine.execRsGen k s
  | .rsDiv => Sys2Proof.Machine.execRsDiv s
  | .bchFmt e m => Sys2Proof.Machine.execBchFmt e m s
  | .bchVer v => Sys2Proof.Machine.execBchVer v s
  | .bsClear => Sys2Proof.Machine.execBsClear s
  | .bsPut => Sys2Proof.Machine.execBsPut s
  | .segNum => Sys2Proof.Machine.execSegNum s
  | .segAlnum => Sys2Proof.Machine.execSegAlnum s
  | .segByte => Sys2Proof.Machine.execSegByte s
  | .segKanji => Sys2Proof.Machine.execSegKanji s
  | .bsFinal => Sys2Proof.Machine.execBsFinal s
  | .mxBuild m t => Sys2Proof.Machine.execMxBuild m t s
  | .mxScore => Sys2Proof.Machine.execMxScore s
  | .mxMake => Sys2Proof.Machine.execMxMake s
  | .mxGet => Sys2Proof.Machine.execMxGet s

end Sys2Proof.Machine
end

