-- ==== Sys2Proof/Machine/Engine.lean ====
section
/-! DEFINITION. The engine step and the interleaving of turns (40_control.md R121, R123, 20_memory.md R75). -/

namespace Sys2Proof.Machine

open Sys2Proof

/-- The engine step while BUSY = 1 (40_control.md R121, R123): the pending word is decoded and performed; an ILLEGAL word
completes with ILLEGAL_COMMAND. -/
def engineStep (s : State) : Host.Outcome State Fault Refusal :=
  match decode s.pending with
  | .ok i => exec i s
  | .error _ => .next (s.complete .illegalCommand)

/-- The engine's turn: a step exactly when BUSY = 1, else nothing happens (40_control.md R121). -/
def engineTurn (s : State) : Host.Outcome State Fault Refusal :=
  if s.busy then engineStep s else .next s

/-- The state with its first turn taken away. -/
def State.withTurns (s : State) (rest : List Turn) : State := { s with schedule := rest }

/-- The next turn. Reset comes at any time (70_reset_and_hazards.md R330). Otherwise no agent has a step once a fault is
recorded (60_exceptions.md R306). With no turn scheduled the engine has its turn while BUSY = 1, so a pending command is
always performed in the end (70_reset_and_hazards.md R343), and the host program its turn while BUSY = 0 (log entry 1); with
nothing to do the machine stays as it is (60_exceptions.md R314). -/
def takeTurn (s : State) : Host.Outcome State Fault Refusal :=
  match s.schedule with
  | .reset :: rest => .next (s.withTurns rest).resetInput
  | .host a :: rest =>
    match s.fault with
    | some f => .fault f
    | none => .next ((s.withTurns rest).hostAccess a)
  | .engine :: rest =>
    match s.fault with
    | some f => .fault f
    | none => engineTurn (s.withTurns rest)
  | .program :: rest =>
    match s.fault with
    | some f => .fault f
    | none => .next (s.withTurns rest).programStep
  | [] =>
    match s.fault with
    | some f => .fault f
    | none => if s.busy then engineStep s else .next s.programStep

/-- The state in which the engine's next step performs the command word w: as after a host write of w to CMD
(40_control.md R120), with no fault recorded and the engine's turn first (log entry 8). -/
def State.loadCommand (s : State) (w : Word) : State :=
  { s.issue w with fault := none, schedule := .engine :: s.schedule }

end Sys2Proof.Machine
end

