-- ==== Sys2Proof/Machine/Step.lean ====
section
/-! DEFINITION. One step of the machine, and how a command word is put where the next step performs it. -/

namespace Sys2Proof.Machine

open Sys2Proof

/-- One step: the next turn of the schedule (20_memory.md R75). -/
def step (s : State) : Host.Outcome State Fault Refusal := takeTurn s

/-- s with the command word w of nbits bits (the bits above them 0) pending, so that the next step performs it. QRCORE
fetches nothing: a command comes from a host write of CMD (10_state.md R21, log entry 8). -/
def State.withFetchWord (s : State) (nbits w : Nat) : State :=
  s.loadCommand (.ofNat 32 (w % 2 ^ nbits))

end Sys2Proof.Machine
end

