-- ==== Sys2Proof/Machine/HostOps.lean ====
section
/-! DEFINITION. The host operations and pseudo-instructions of 30_encoding.md R98 and R99 as the steps of a host program that
they expand to (Machine/Bus.lean runs them). What else a host decides from what it reads stays outside the model (log entry
12). -/

namespace Sys2Proof.Machine

open Sys2Proof

/-- A host operation (30_encoding.md R99). -/
inductive HostOp where
  /-- WR REG, v. -/
  | wr (r : HostReg) (v : Word)
  /-- RD REG. -/
  | rd (r : HostReg)
  /-- WRB a, b0, b1, … -/
  | wrb (a : Nat) (bs : List Byte)
  /-- RDB a, n. -/
  | rdb (a n : Nat)
  /-- WAIT. -/
  | wait
  /-- CHECK: WAIT, then RD STATUS, expecting ERR = 0. -/
  | check
  /-- A command mnemonic with its ARG operands. -/
  | command (i : Instr) (args : List Word)
  deriving DecidableEq, Repr

/-- The word an assembler makes of a written command (30_encoding.md R98). -/
def assembleWord (w : Written) : Option Word := (assemble w).map encode

/-- RD of a register. -/
def readStep (r : HostReg) : HostStep := .access (.read r.offset 32)

/-- WR of a register. -/
def writeStep (r : HostReg) (v : Word) : HostStep := .access (.write r.offset 32 v)

/-- The ARG registers a command reads, in order (30_encoding.md R95). -/
def argRegs : Instr → List HostReg
  | .nop | .gfExp _ | .gfLog _ | .gfMul _ _ | .rsGen _ | .bchFmt _ _ | .bchVer _ | .bsClear | .mxScore => []
  | .bsFinal => [.arg0]
  | .bsPut | .segNum | .segAlnum | .segByte | .segKanji | .mxBuild _ _ | .mxMake | .mxGet => [.arg0, .arg1]
  | .rsDiv => [.arg0, .arg1, .arg2]

/-- The steps a host operation stands for (30_encoding.md R99). Each ARG is written only if its operand is given. -/
def HostOp.steps : HostOp → List HostStep
  | .wr r v => [writeStep r v]
  | .rd r => [readStep r]
  | .wrb a bs => bs.zipIdx.map fun b => .access (.write (windowBase + a + b.2) 8 (b.1.setWidth 32))
  | .rdb a n => (List.range n).map fun k => .access (.read (windowBase + a + k) 8)
  | .wait => [.wait]
  | .check => [.wait, .check]
  | .command i args =>
    ((argRegs i).zip args).map (fun p => writeStep p.1 p.2) ++ [writeStep .cmd (encode i), .wait]

/-- The state with a host program, a list of host operations, to be run from its first one (30_encoding.md R99). -/
def State.runHost (s : State) (ops : List HostOp) : State :=
  { s with program := ops.flatMap HostOp.steps, programError := none }

end Sys2Proof.Machine
end

