-- ==== Sys2Proof/Safety.lean ====
section
/-! DEFINITION. What a safe run is, and the invariants of the state that the spec's prose states, in the terms the statements
use. -/

namespace Sys2Proof.Machine

open Sys2Proof

/-- A run claims nothing past a model fault: a claim takes FAULT = none as a premise (60_exceptions.md R306). -/
abbrev State.Clean (s : State) : Prop := s.fault = none

/-- The step s makes is free of model faults: it answers a next state, and that state is clean. -/
def State.SafeStep (s : State) : Prop := ∃ t, step s = .next t ∧ t.Clean

/-- M is in canonical form and every defined byte lies in M (20_memory.md R60, R61, R62). -/
structure State.MemorySound (s : State) : Prop where
  canonical : s.mem.wf
  inside : s.mem.below s.params.memSize

/-- The GEN store has EC_MAX + 1 slots; it holds Gen(GEN_LEN) once one is built, and 0 beyond (10_state.md R30, R38). -/
structure State.GeneratorSound (s : State) : Prop where
  slots : s.gen.length = s.params.ecMax + 1
  bounded : s.genLen.toNat ≤ s.params.ecMax
  holdsGen : s.genLen ≠ 0 → s.gen.take (s.genLen.toNat + 1) = genPoly s.genLen.toNat
  zeroBeyond : ∀ j, s.genLen.toNat < j → s.gen.getD j 0 = 0

/-- The bit stream lies in M, and every byte that holds a bit of it is defined (44_packer.md R200, R201 and the note of
95_test_vectors.md V-PK-8). -/
structure State.StreamSound (s : State) : Prop where
  fits : s.bsLen ≠ 0 → s.bsBase.toNat + bytesFor s.bsLen.toNat ≤ s.params.memSize
  defined : ∀ p, p < s.bsLen.toNat → s.mem.read (s.bsBase.toNat + p / 8) ≠ none

/-- MODCOUNT is 0 without a matrix; with one it is 4·v + 17 of a legal v, and every cell of that part of MTX is resolved
(10_state.md R32, R39, 45_matrix.md R257). -/
structure State.MatrixSound (s : State) : Prop where
  absent : s.mtxState = .none → s.modCount = 0
  side : s.mtxState ≠ .none → ∃ v, 1 ≤ v ∧ v ≤ 40 ∧ s.modCount.toNat = sideOf v
  resolved : s.mtxState ≠ .none → ∀ r c, r < s.modCount.toNat → c < s.modCount.toNat → s.mtx.get r c ≠ .unset

end Sys2Proof.Machine
end

