-- ==== Sys2Proof/Certificates/Slice0/Obligations.lean ====
section
/-! DEFINITION. The statements for the provers. Each docstring names the rule of spec/ it follows. -/

open Sys2Proof Sys2Proof.Machine

/-! Functions and predicates of the spec that the statements are made with, written apart from the model's own. -/

namespace Sys2Proof.Claims

/-- Completion with a code as 40_control.md R121 and 60_exceptions.md R303 list it: STATUS.ERR, STATUS.LAST_OPC, BUSY. -/
def ended (code : ErrCode) (s : State) : State :=
  { s with err := code, lastOpc := s.pending.extractLsb' 0 8, busy := false }

/-- The state whose command failed with a code: nothing but STATUS changed (60_exceptions.md R303). -/
def failsWith (i : Instr) (s : State) (code : ErrCode) : Prop := exec i s = .next (ended code s)

/-- α · x in GF(256): the doubling of 41_gf.md R140. -/
def timesAlpha (x : Byte) : Byte :=
  .ofNat 8 (if (2 * x.toNat).testBit 8 then (2 * x.toNat) ^^^ 0x11D else 2 * x.toNat)

/-- α to the power n (41_gf.md R140). -/
def alphaPow : Nat → Byte
  | 0 => 1
  | n + 1 => timesAlpha (alphaPow n)

/-- The product of two polynomials over GF(2), the second of degree below 8. -/
def carryless (a b : Nat) : Nat :=
  (List.range 8).foldl (fun acc i => if b.testBit i then acc ^^^ (a <<< i) else acc) 0

/-- A polynomial over GF(2) of degree below 15, reduced modulo 0x11D from the top bit down. -/
def reduced (x : Nat) : Nat :=
  (List.range 7).foldl (fun y j => if y.testBit (14 - j) then y ^^^ (0x11D <<< (6 - j)) else y) x

/-- The product of two bytes as polynomials modulo 0x11D (41_gf.md R142). -/
def fieldProduct (a b : Byte) : Byte := .ofNat 8 (reduced (carryless a.toNat b.toNat))

/-- The value of a polynomial over GF(256), highest degree first, at x (00_scope.md R10). -/
def valueAt (p : List Byte) (x : Byte) : Byte := p.foldl (fun acc c => gfMul acc x ^^^ c) 0

/-- M holds the bytes bs from address a on. -/
def Holds (m : Memory) (a : Nat) (bs : List Byte) : Prop :=
  ∀ i (h : i < bs.length), m.read (a + i) = some bs[i]

/-- Bit p of the bit stream: bit 7 − p mod 8 of byte BS_BASE + p div 8 (44_packer.md R200). -/
def streamBitAt (s : State) (p : Nat) : Option Bool :=
  (s.mem.read (s.bsBase.toNat + p / 8)).map fun b => b.getLsbD (7 - p % 8)

/-- t's memory is s's with the bits bs appended to the stream: the new bits stand in order from position BS_LEN, the bits
after them in the last byte are 0, the stream's earlier bits are kept, and so is every byte outside the bytes from
BS_BASE + BS_LEN div 8 up to BS_BASE + ceil((BS_LEN + |bs|) / 8) (44_packer.md R200, R201). -/
def Appends (s t : State) (bs : List Bool) : Prop :=
  let len := s.bsLen.toNat
  t.bsBase = s.bsBase ∧
  (∀ i (h : i < bs.length), streamBitAt t (len + i) = some bs[i]) ∧
  (bs ≠ [] → ∀ p, len + bs.length ≤ p → p < 8 * bytesFor (len + bs.length) → streamBitAt t p = some false) ∧
  (∀ p, p < len → streamBitAt t p = streamBitAt s p) ∧
  (∀ b, b < s.bsBase.toNat + len / 8 ∨ s.bsBase.toNat + bytesFor (len + bs.length) ≤ b → t.mem.read b = s.mem.read b) ∧
  (bs = [] → t.mem = s.mem)

/-- The stream's partial byte, if it has one, is defined (44_packer.md R201). -/
def PartialByteDefined (s : State) : Prop :=
  s.bsLen.toNat % 8 = 0 ∨ s.mem.read (s.bsBase.toNat + s.bsLen.toNat / 8) ≠ none

/-- The segment command of a mode (44_packer.md R212 to R215). -/
def segCommand : Mode → Instr
  | .numeric => .segNum
  | .alphanumeric => .segAlnum
  | .byte => .segByte
  | .kanji => .segKanji

/-- The cells of the format areas, the fixed module and the version areas (45_matrix.md R246, R247, R248). -/
def informationCells (v : Nat) : List (Nat × Nat) :=
  let n := 4 * v + 17
  (List.range 6).map (fun i => (i, 8)) ++ [(7, 8), (8, 8)] ++ (List.range 7).map (fun i => (n - 7 + i, 8)) ++
  (List.range 8).map (fun i => (8, n - 1 - i)) ++ [(8, 7)] ++ (List.range 6).map (fun i => (8, i)) ++ [(n - 8, 8)] ++
  (if 7 ≤ v then
    (List.range 18).flatMap fun i => [(i / 3, n - 11 + i % 3), (n - 11 + i % 3, i / 3)]
  else [])

/-- The cell is dark. -/
def isDark (g : Grid) (r c : Nat) : Prop := g.get r c = .dark

/-- Which square ring around the cell (r0 + half, c0 + half) the cell (r, c) lies on; 0 is that cell itself. -/
def ringOf (r0 c0 half r c : Nat) : Nat :=
  max (max (r - (r0 + half)) ((r0 + half) - r)) (max (c - (c0 + half)) ((c0 + half) - c))

/-- The format cells of bits 0 to 14 along column 8 (45_matrix.md R246). -/
def verticalFormat (n : Nat) : List (Nat × Nat) :=
  [(0, 8), (1, 8), (2, 8), (3, 8), (4, 8), (5, 8), (7, 8), (8, 8)] ++ (List.range 7).map fun i => (n - 7 + i, 8)

/-- The format cells of bits 0 to 14 along row 8 (45_matrix.md R246). -/
def horizontalFormat (n : Nat) : List (Nat × Nat) :=
  ((List.range 8).map fun i => (8, n - 1 - i)) ++ [(8, 7), (8, 5), (8, 4), (8, 3), (8, 2), (8, 1), (8, 0)]

/-- The cells in the order of the data traversal: the column pairs from the right, without column 6, upwards and downwards in
turn, the right column first (45_matrix.md R249). -/
def dataOrder (n : Nat) : List (Nat × Nat) :=
  (((List.range n).filter fun c => c % 2 == 0 && decide (8 ≤ c)).reverse ++ [5, 3, 1]).zipIdx.flatMap fun (p : Nat × Nat) =>
    (if p.2 % 2 = 0 then (List.range n).reverse else List.range n).flatMap fun r => [(r, p.1), (r, p.1 - 1)]

/-- The ARG registers a command reads: the first so many of ARG0, ARG1, ARG2 (30_encoding.md R95). -/
def argCount : Instr → Nat
  | .rsDiv => 3
  | .bsPut | .segNum | .segAlnum | .segByte | .segKanji | .mxBuild _ _ | .mxMake | .mxGet => 2
  | .bsFinal => 1
  | .nop | .gfExp _ | .gfLog _ | .gfMul _ _ | .rsGen _ | .bchFmt _ _ | .bchVer _ | .bsClear | .mxScore => 0

/-- The commands that store to M (42_rs.md R165, 44_packer.md R211 to R216). -/
def storesToM : Instr → Bool
  | .rsDiv | .bsPut | .segNum | .segAlnum | .segByte | .segKanji | .bsFinal => true
  | _ => false

/-- The commands that write BS_LEN (10_state.md R29). -/
def writesStreamLength : Instr → Bool
  | .bsClear | .bsPut | .segNum | .segAlnum | .segByte | .segKanji | .bsFinal => true
  | _ => false

/-- MX_BUILD or MX_MAKE. -/
def buildsMatrix : Instr → Bool
  | .mxBuild _ _ | .mxMake => true
  | _ => false

/-- RS_GEN. -/
def buildsGenerator : Instr → Bool
  | .rsGen _ => true
  | _ => false

/-- The checks that come before the reads pass, and the command reads ARG1 bytes from ARG0 on (60_exceptions.md R302, with
ADDRESS_ERROR for the source region left to the statement). -/
def readsItsSource (i : Instr) (s : State) : Prop :=
  match i with
  | .rsDiv => s.genLen ≠ 0 ∧ s.arg2.toNat + s.genLen.toNat ≤ s.params.memSize
  | .segNum | .segAlnum | .segByte | .segKanji | .mxBuild _ _ | .mxMake => 1 ≤ s.version.toNat ∧ s.version.toNat ≤ 40
  | _ => False

/-- The low w bits of v, most significant first (44_packer.md R202). -/
def msbFirst (v : Nat) : Nat → List Bool
  | 0 => []
  | w + 1 => v.testBit w :: msbFirst v w

/-- The source in groups of k bytes, the last one of what is left. -/
def groupsOf (k : Nat) (src : List Byte) : List (List Byte) :=
  (List.range ((src.length + k - 1) / k)).map fun g => (src.drop (k * g)).take k

/-- The 45 alphanumeric characters in the order of their codes: 0 to 9, A to Z, space, $ % * + - . / : (44_packer.md R206). -/
def alphabet : List Nat :=
  [0x30, 0x31, 0x32, 0x33, 0x34, 0x35, 0x36, 0x37, 0x38, 0x39] ++
  [0x41, 0x42, 0x43, 0x44, 0x45, 0x46, 0x47, 0x48, 0x49, 0x4A, 0x4B, 0x4C, 0x4D] ++
  [0x4E, 0x4F, 0x50, 0x51, 0x52, 0x53, 0x54, 0x55, 0x56, 0x57, 0x58, 0x59, 0x5A] ++
  [0x20, 0x24, 0x25, 0x2A, 0x2B, 0x2D, 0x2E, 0x2F, 0x3A]

/-- The codes of double-byte characters with a Kanji value (44_packer.md R218). -/
abbrev isKanjiCode (c : Nat) : Prop :=
  0x40 ≤ c % 256 ∧ c % 256 ≤ 0xFC ∧ ((0x8140 ≤ c ∧ c ≤ 0x9FFC) ∨ (0xE040 ≤ c ∧ c ≤ 0xEBBF))

/-- The Kanji value of such a code (44_packer.md R218). -/
def kanjiNumber (c : Nat) : Nat :=
  let t := if c ≤ 0x9FFC then c - 0x8140 else c - 0xC140
  (t / 256) * 0xC0 + t % 256

/-- The code of a group of two bytes, the lead byte first (20_memory.md R68). -/
def pairCode (g : List Byte) : Nat := g.foldl (fun x b => 256 * x + b.toNat) 0

/-- The sources a mode supports (44_packer.md R205, R206, R208, R219). -/
def Supported : Mode → List Byte → Prop
  | .numeric, src => ∀ b ∈ src, 0x30 ≤ b.toNat ∧ b.toNat ≤ 0x39
  | .alphanumeric, src => ∀ b ∈ src, b.toNat ∈ alphabet
  | .byte, _ => True
  | .kanji, src => src.length % 2 = 0 ∧ ∀ g ∈ groupsOf 2 src, isKanjiCode (pairCode g)

/-- The payload of a supported source (44_packer.md R205, R207, R208, R219). -/
def payloadBits : Mode → List Byte → List Bool
  | .numeric, src => (groupsOf 3 src).flatMap fun g =>
      msbFirst (g.foldl (fun x b => 10 * x + (b.toNat - 0x30)) 0) ([0, 4, 7, 10].getD g.length 0)
  | .alphanumeric, src => (groupsOf 2 src).flatMap fun g =>
      msbFirst (g.foldl (fun x b => 45 * x + alphabet.idxOf b.toNat) 0) ([0, 6, 11].getD g.length 0)
  | .byte, src => src.flatMap fun b => msbFirst b.toNat 8
  | .kanji, src => (groupsOf 2 src).flatMap fun g => msbFirst (kanjiNumber (pairCode g)) 13

/-- The widths of the length indicator for versions 1 to 9, 10 to 26 and 27 to 40 (44_packer.md R204). -/
def widthBands : Mode → List Nat
  | .numeric => [10, 12, 14]
  | .alphanumeric => [9, 11, 13]
  | .byte => [8, 16, 16]
  | .kanji => [8, 10, 12]

/-- Where mask m flips the data cell in row i and column j (45_matrix.md R252). -/
abbrev Flips (m : BitVec 3) (i j : Nat) : Prop :=
  (m = 0 ∧ (i + j) % 2 = 0) ∨ (m = 1 ∧ i % 2 = 0) ∨ (m = 2 ∧ j % 3 = 0) ∨ (m = 3 ∧ (i + j) % 3 = 0) ∨
  (m = 4 ∧ (i / 2 + j / 3) % 2 = 0) ∨ (m = 5 ∧ (i * j) % 2 = 0 ∧ (i * j) % 3 = 0) ∨
  (m = 6 ∧ ((i * j) % 2 + (i * j) % 3) % 2 = 0) ∨ (m = 7 ∧ ((i * j) % 3 + (i + j) % 2) % 2 = 0)

/-! The penalty of a square of n × n cells, dark = true, from the rules' own words (46_mask.md R280 to R284). -/

/-- The l cells from i on are a maximal run of equal cells of a line of n cells (46_mask.md R280). -/
abbrev isRun (n : Nat) (line : Nat → Bool) (i l : Nat) : Prop :=
  1 ≤ l ∧ i + l ≤ n ∧ (∀ k, k < l → line (i + k) = line i) ∧ (i = 0 ∨ line (i - 1) ≠ line i) ∧
    (i + l = n ∨ line (i + l) ≠ line i)

/-- What the runs of a line score: 3 + (L − 5) for every maximal run of L ≥ 5 cells (46_mask.md R280). -/
def runsOfLine (n : Nat) (line : Nat → Bool) : Nat :=
  ((List.range n).flatMap fun i => (List.range (n + 1)).map fun l =>
    if 5 ≤ l ∧ isRun n line i l then 3 + (l - 5) else 0).sum

/-- The windows dark, light, dark, dark, dark, light, dark of a line (46_mask.md R282). -/
def windowsOfLine (n : Nat) (line : Nat → Bool) : Nat :=
  ((List.range (n - 6)).filter fun i =>
    line i && !line (i + 1) && line (i + 2) && line (i + 3) && line (i + 4) && !line (i + 5) && line (i + 6)).length

/-- The 2 × 2 blocks of one colour (46_mask.md R281). -/
def blocksOf (n : Nat) (x : Nat → Nat → Bool) : Nat :=
  ((List.range (n - 1)).map fun r => ((List.range (n - 1)).filter fun c =>
    x r c == x (r + 1) c && x r c == x r (c + 1) && x r c == x (r + 1) (c + 1)).length).sum

/-- The dark cells (46_mask.md R283). -/
def darkCells (n : Nat) (x : Nat → Nat → Bool) : Nat :=
  ((List.range n).map fun r => ((List.range n).filter fun c => x r c).length).sum

/-- 10 · (|20·D − 10·T| div T) for D dark cells of T (46_mask.md R283). -/
def balanceOf (d t : Nat) : Nat := 10 * ((if 20 * d ≤ 10 * t then 10 * t - 20 * d else 20 * d - 10 * t) / t)

/-- Penalty(X): rules (a) and (c) over the rows and the columns, (b) and (d) over the square (46_mask.md R284). -/
def totalPenalty (n : Nat) (x : Nat → Nat → Bool) : Nat :=
  ((List.range n).map fun i =>
    runsOfLine n (fun c => x i c) + runsOfLine n (fun r => x r i) +
    40 * (windowsOfLine n (fun c => x i c) + windowsOfLine n (fun r => x r i))).sum +
  3 * blocksOf n x + balanceOf (darkCells n x) (n * n)

/-- The dark cells of a grid. -/
def darkIn (g : Grid) (r c : Nat) : Bool := g.get r c == .dark

/-- ALIGN(1) to ALIGN(20) (45_matrix.md R243). -/
def alignLow : List (List Nat) :=
  [[], [6, 18], [6, 22], [6, 26], [6, 30], [6, 34], [6, 22, 38], [6, 24, 42], [6, 26, 46], [6, 28, 50], [6, 30, 54],
    [6, 32, 58], [6, 34, 62], [6, 26, 46, 66], [6, 26, 48, 70], [6, 26, 50, 74], [6, 30, 54, 78], [6, 30, 56, 82],
    [6, 30, 58, 86], [6, 34, 62, 90]]

/-- ALIGN(21) to ALIGN(40) (45_matrix.md R243). -/
def alignHigh : List (List Nat) :=
  [[6, 28, 50, 72, 94], [6, 26, 50, 74, 98], [6, 30, 54, 78, 102], [6, 28, 54, 80, 106], [6, 32, 58, 84, 110],
    [6, 30, 58, 86, 114], [6, 34, 62, 90, 118], [6, 26, 50, 74, 98, 122], [6, 30, 54, 78, 102, 126],
    [6, 26, 52, 78, 104, 130], [6, 30, 56, 82, 108, 134], [6, 34, 60, 86, 112, 138], [6, 30, 58, 86, 114, 142],
    [6, 34, 62, 90, 118, 146], [6, 30, 54, 78, 102, 126, 150], [6, 24, 50, 76, 102, 128, 154],
    [6, 28, 54, 80, 106, 132, 158], [6, 32, 58, 84, 110, 136, 162], [6, 26, 54, 82, 110, 138, 166],
    [6, 30, 58, 86, 114, 142, 170]]

/-- ALIGN(v) (45_matrix.md R243). -/
def alignOf (v : Nat) : List Nat := (alignLow ++ alignHigh).getD (v - 1) []

/-- The function cells of version v: finder patterns with their separators, the timing row and column, the format areas, the
fixed module and the version areas, and the alignment patterns whose centre is in no finder area, each whole
(45_matrix.md R242 to R248, 90_conflicts.md C3). Every other cell of the symbol is a data cell. -/
abbrev isFunctionCell (v r c : Nat) : Prop :=
  (r ≤ 7 ∧ c ≤ 7) ∨ (r ≤ 7 ∧ 4 * v + 9 ≤ c) ∨ (4 * v + 9 ≤ r ∧ c ≤ 7) ∨ r = 6 ∨ c = 6 ∨ (r, c) ∈ informationCells v ∨
  ∃ r0 ∈ alignOf v, ∃ c0 ∈ alignOf v,
    (r0, c0) ∉ [(6, 6), (6, 4 * v + 10), (4 * v + 10, 6)] ∧ ringOf r0 c0 0 r c ≤ 2

/-- The table of format words, rows E = 0b00, 0b01, 0b10, 0b11 (43_bch.md R185). -/
def formatTable : List (List Nat) :=
  [ [0x5412, 0x5125, 0x5E7C, 0x5B4B, 0x45F9, 0x40CE, 0x4F97, 0x4AA0],
    [0x77C4, 0x72F3, 0x7DAA, 0x789D, 0x662F, 0x6318, 0x6C41, 0x6976],
    [0x1689, 0x13BE, 0x1CE7, 0x19D0, 0x0762, 0x0255, 0x0D0C, 0x083B],
    [0x355F, 0x3068, 0x3F31, 0x3A06, 0x24B4, 0x2183, 0x2EDA, 0x2BED] ]

end Sys2Proof.Claims

open Sys2Proof.Claims

/-! Encoding. -/

/-- 30_encoding.md R91, R97, R98: every command, with every operand value its fields admit, is decoded from its own word. -/
def Obligations.DecodeOfEncode : Prop := ∀ i : Instr, decode (encode i) = .ok i

/-- 30_encoding.md R91, R97: a word that decodes to a command is that command's word, so no bit of a legal word is lost. -/
def Obligations.EncodeOfDecode : Prop := ∀ (w : Word) (i : Instr), decode w = .ok i → encode i = w

/-- 30_encoding.md R94: no two rows match the same word. -/
def Obligations.NoWordSelectsTwoRows : Prop :=
  ∀ (w : Word), ∀ r ∈ opcodeTable, ∀ r' ∈ opcodeTable,
    w &&& r.mask = r.pattern → w &&& r'.mask = r'.pattern → r = r'

/-- The words of the rules' own examples (40_control.md R122 to 46_mask.md R286) decode to their commands. -/
def Obligations.ExampleWordsDecode : Prop :=
  decode 0x00000000 = .ok .nop ∧ decode 0x00001910 = .ok (.gfExp 0x19) ∧ decode 0x00000311 = .ok (.gfLog 0x03) ∧
  decode 0x00CA5312 = .ok (.gfMul 0x53 0xCA) ∧ decode 0x00000A20 = .ok (.rsGen 10) ∧ decode 0x00000021 = .ok .rsDiv ∧
  decode 0x00000830 = .ok (.bchFmt 0b01 0) ∧ decode 0x00000731 = .ok (.bchVer 7) ∧ decode 0x00000042 = .ok .segNum ∧
  decode 0x00000046 = .ok .bsFinal ∧ decode 0x00000A50 = .ok (.mxBuild 2 1) ∧ decode 0x00000053 = .ok .mxGet

/-- 30_encoding.md R93: an assigned opcode with a nonzero reserved bit completes with ILLEGAL_COMMAND and has no effect beyond
STATUS. -/
def Obligations.ReservedBitIsIllegal : Prop :=
  ∀ (s : State) (rest : List Turn), ∀ r ∈ opcodeTable,
    s.fault = none → s.busy = true → s.schedule = .engine :: rest →
    s.pending.extractLsb' 0 8 = r.pattern.extractLsb' 0 8 → s.pending &&& r.mask ≠ r.pattern →
    step s = .next (ended .illegalCommand { s with schedule := rest })

/-- 30_encoding.md R96: an opcode outside the map completes with ILLEGAL_COMMAND, whatever the upper bits. -/
def Obligations.UnassignedOpcodeIsIllegal : Prop :=
  ∀ (s : State) (rest : List Turn) (opc : Nat),
    s.fault = none → s.busy = true → s.schedule = .engine :: rest →
    (s.pending.extractLsb' 0 8).toNat = opc →
    ((0x01 ≤ opc ∧ opc ≤ 0x0F) ∨ (0x13 ≤ opc ∧ opc ≤ 0x1F) ∨ (0x22 ≤ opc ∧ opc ≤ 0x2F) ∨
      (0x32 ≤ opc ∧ opc ≤ 0x3F) ∨ (0x47 ≤ opc ∧ opc ≤ 0x4F) ∨ (0x54 ≤ opc ∧ opc ≤ 0xFF)) →
    step s = .next (ended .illegalCommand { s with schedule := rest })

/-! The step. -/

/-- 40_control.md R121, R123: while BUSY = 1 the engine's turn performs the pending command. The model's choices: with an
empty schedule the engine has its turn then (log entry 1); and while BUSY = 0, where R121 gives the engine no step and
60_exceptions.md R314 calls it idle, its turn answers the same state and is used up, as does a step with an empty schedule and
no host program (log entry 6). -/
def Obligations.StepPerformsPendingCommand : Prop :=
  ∀ (s : State) (i : Instr), s.fault = none → decode s.pending = .ok i →
    (s.busy = true →
      (s.schedule = [] → step s = exec i s) ∧
      (∀ rest, s.schedule = .engine :: rest → step s = exec i { s with schedule := rest })) ∧
    (s.busy = false →
      (s.schedule = [] → s.program = [] → step s = .next s) ∧
      (∀ rest, s.schedule = .engine :: rest → step s = .next { s with schedule := rest }))

/-- The word a fetch places is the word the next step performs (the model's hook, log entry 8; 40_control.md R120, R121). -/
def Obligations.FetchWordRunsTheCommand : Prop :=
  ∀ (s : State) (i : Instr),
    step (s.withFetchWord 32 (encode i).toNat) =
      exec i { s with cmd := encode i, pending := encode i, busy := true, fault := none }

/-- 40_control.md R120: a 32-bit host write of CMD while BUSY = 0 and FAULT = none. -/
def Obligations.CommandIssue : Prop :=
  ∀ (s : State) (w : Word) (rest : List Turn),
    s.fault = none → s.busy = false → s.schedule = .host (.write 0x000 32 w) :: rest →
    step s = .next { s with cmd := w, pending := w, busy := true, schedule := rest }

/-- 70_reset_and_hazards.md R340: while BUSY = 1 a 32-bit STATUS read is answered, and every other host access is the model
fault HostHazard. That HostHazard wins where the access is also a HostBadAccess is read from R340 by inference (log entry 13);
that the value read is in lastRead and that the access uses up its turn is the model's choice (log entries 2, 15). -/
def Obligations.BusyHazard : Prop :=
  ∀ (s : State) (a : HostAccess) (rest : List Turn),
    s.fault = none → s.busy = true → s.schedule = .host a :: rest →
    (a = .read 0x004 32 → step s = .next { s with schedule := rest, lastRead := some s.status }) ∧
    (a ≠ .read 0x004 32 → step s = .next { s with schedule := rest, fault := some (.hostHazard a.offset) })

/-- 10_state.md R23 and 60_exceptions.md R300: the fields of STATUS and the numbers of the error codes. -/
def Obligations.StatusFields : Prop :=
  (∀ s : State,
    s.status.getLsbD 0 = s.busy ∧ s.status.getLsbD 1 = decide (s.err ≠ .none) ∧
    s.status.extractLsb' 2 6 = 0 ∧ s.status.extractLsb' 8 8 = s.err.code ∧
    s.status.extractLsb' 16 8 = s.lastOpc ∧ s.status.extractLsb' 24 8 = 0) ∧
  [ErrCode.none, .unsupportedCharacter, .capacityExceeded, .invalidParameter, .outOfRange, .domainError, .illegalCommand,
    .addressError, .notReady].map ErrCode.code = [0, 1, 2, 3, 4, 5, 6, 7, 8]

/-- 10_state.md R22, R30, R36: what a 32-bit read of each register returns; it changes nothing else. That the
value is in lastRead is the model's choice (log entry 2). -/
def Obligations.RegisterReads : Prop :=
  ∀ (s : State) (rest : List Turn) (offset : Nat) (value : Word),
    s.fault = none → s.busy = false → s.params.Legal → s.schedule = .host (.read offset 32) :: rest →
    ((offset, value) ∈
        ([(0x000, s.cmd), (0x004, s.status), (0x008, s.arg0), (0x00C, s.arg1), (0x010, s.arg2), (0x014, s.res0),
          (0x018, s.res1), (0x01C, s.version.setWidth 32), (0x020, s.ecLevel.setWidth 32), (0x024, s.bsBase),
          (0x028, s.bsLen), (0x02C, s.genLen.setWidth 32), (0x030, s.mask.setWidth 32), (0x034, s.modCount.setWidth 32),
          (0x038, if s.mtxState = .none then 0 else if s.mtxState = .test then 1 else 2)] : List (Nat × Word)) ∨
      (∃ m : Fin 8, offset = 0x040 + 4 * m.val ∧ value = s.penalty[m]) ∨
      (∃ j, j ≤ s.params.ecMax ∧ offset = 0x080 + 4 * j ∧
        value = if j ≤ s.genLen.toNat then (s.gen.getD j 0).setWidth 32 else 0)) →
    step s = .next { s with schedule := rest, lastRead := some value }

/-- 10_state.md R22, R28, R36 and 20_memory.md R72: what a 32-bit write of each register but CMD does. Unused bits are
discarded, a BS_BASE write also clears BS_LEN, and a write of a read-only register has no effect. -/
def Obligations.RegisterWrites : Prop :=
  ∀ (s : State) (rest : List Turn) (offset : Nat) (w : Word),
    s.fault = none → s.busy = false → s.params.Legal → s.schedule = .host (.write offset 32 w) :: rest →
    (offset = 0x008 → step s = .next { s with schedule := rest, arg0 := w }) ∧
    (offset = 0x00C → step s = .next { s with schedule := rest, arg1 := w }) ∧
    (offset = 0x010 → step s = .next { s with schedule := rest, arg2 := w }) ∧
    (offset = 0x01C → step s = .next { s with schedule := rest, version := w.extractLsb' 0 6 }) ∧
    (offset = 0x020 → step s = .next { s with schedule := rest, ecLevel := w.extractLsb' 0 2 }) ∧
    (offset = 0x024 → step s = .next { s with schedule := rest, bsBase := w, bsLen := 0 }) ∧
    (offset ∈ [0x004, 0x014, 0x018, 0x028, 0x02C, 0x030, 0x034, 0x038] ∨ (∃ m, m < 8 ∧ offset = 0x040 + 4 * m) ∨
        (∃ j, j ≤ s.params.ecMax ∧ offset = 0x080 + 4 * j) →
      step s = .next { s with schedule := rest })

/-- 20_memory.md R64: host accesses to the M window, at each a below MEM_SIZE. A byte write sets M[a], a byte read returns it
or records UninitRead, and an access of another width records HostBadAccess. The value read is in lastRead (log entry 2). A
byte write takes bits [7:0] of its value, the widths are natural numbers, and a faulting access uses up its turn (log entry
15). -/
def Obligations.WindowAccess : Prop :=
  ∀ (s : State) (rest : List Turn) (a : Nat) (w : Word),
    s.fault = none → s.busy = false → a < s.params.memSize →
    (s.schedule = .host (.write (0x10000 + a) 8 w) :: rest →
      ∃ t, step s = .next t ∧ t = { s with schedule := rest, mem := t.mem } ∧
        t.mem.read a = some (w.extractLsb' 0 8) ∧ ∀ b, b ≠ a → t.mem.read b = s.mem.read b) ∧
    (s.schedule = .host (.read (0x10000 + a) 8) :: rest →
      (∀ x, s.mem.read a = some x → step s = .next { s with schedule := rest, lastRead := some (x.setWidth 32) }) ∧
      (s.mem.read a = none → step s = .next { s with schedule := rest, fault := some (.uninitRead a) })) ∧
    (∀ width, width ≠ 8 →
      s.schedule = .host (.read (0x10000 + a) width) :: rest ∨ s.schedule = .host (.write (0x10000 + a) width w) :: rest →
      step s = .next { s with schedule := rest, fault := some (.hostBadAccess (0x10000 + a) width) })

/-- 10_state.md R35 and 20_memory.md R64, R65: an unmapped offset, a register access that is not 32-bit and aligned, a window
access that is not a byte access, or an offset past M is the model fault HostBadAccess. Offsets and widths are natural numbers,
and the access uses up its turn (log entry 15). -/
def Obligations.BadAccessFaults : Prop :=
  ∀ (s : State) (rest : List Turn) (a : HostAccess),
    s.fault = none → s.busy = false → s.schedule = .host a :: rest →
    (a.offset = 0x03C ∨ (0x060 ≤ a.offset ∧ a.offset < 0x080) ∨
      (0x080 + 4 * (s.params.ecMax + 1) ≤ a.offset ∧ a.offset < 0x10000) ∨
      (a.offset < 0x10000 ∧ (a.width ≠ 32 ∨ a.offset % 4 ≠ 0)) ∨
      (0x10000 ≤ a.offset ∧ a.width ≠ 8) ∨ 0x10000 + s.params.memSize ≤ a.offset) →
    step s = .next { s with schedule := rest, fault := some (.hostBadAccess a.offset a.width) }

/-- 10_state.md R42: FAULT keeps the first model fault recorded, through every step that can still be made, the reset input
among them. As 60_exceptions.md R306 says of the two agents, without that input there is no step (log entry 5: step answers
the fault). -/
def Obligations.FaultIsNeverCleared : Prop :=
  ∀ (s : State) (f : Fault), s.fault = some f →
    (∀ t, step s = .next t → t.fault = some f) ∧ ((∀ rest, s.schedule ≠ .reset :: rest) → step s = .fault f)

/-- 70_reset_and_hazards.md R330: what the reset input does, also while BUSY = 1. That the parameters, the turns to come,
the last host read and the host program stay, and that PENDING becomes 0, is the model's choice (log entries 4 and 9). -/
def Obligations.ResetInput : Prop :=
  ∀ (s : State) (rest : List Turn), s.schedule = .reset :: rest →
    step s = .next
      { cmd := 0, busy := false, pending := 0, err := .none, lastOpc := 0, arg0 := 0, arg1 := 0, arg2 := 0, res0 := 0,
        res1 := 0, version := 0, ecLevel := 0, bsBase := 0, bsLen := 0, genLen := 0,
        gen := List.replicate (s.params.ecMax + 1) 0, mask := 0, modCount := 0, mtxState := .none, mtx := Grid.unset,
        penalty := Vector.replicate 8 0, mem := [], fault := s.fault, params := s.params, schedule := rest,
        lastRead := s.lastRead, program := s.program, programError := s.programError }

/-- 70_reset_and_hazards.md R330: the registers and stores after reset, as a host or a command reads them. PENDING is left
out: R330 gives it no value. R330 leaves FAULT as it is; that it is none in State.reset is read from 10_state.md R42 by
inference (log entry 5). That State.reset is the reset state of the instance with the default parameters of 00_scope.md R6 is
the model's choice (log entry 3). -/
def Obligations.ResetState : Prop :=
  let s := State.reset
  s.cmd = 0 ∧ s.busy = false ∧ s.status = 0 ∧ s.arg0 = 0 ∧ s.arg1 = 0 ∧ s.arg2 = 0 ∧ s.res0 = 0 ∧ s.res1 = 0 ∧
  s.version = 0 ∧ s.ecLevel = 0b00 ∧ s.bsBase = 0 ∧ s.bsLen = 0 ∧ s.genLen = 0 ∧ s.mask = 0 ∧ s.modCount = 0 ∧
  s.mtxState = .none ∧ s.fault = none ∧ s.params.memSize = 16384 ∧ s.params.ecMax = 30 ∧
  (∀ j, s.gen.getD j 0 = 0) ∧ (∀ m : Fin 8, s.penalty[m] = 0) ∧ (∀ a, s.mem.read a = none) ∧
  (∀ r c, s.mtx.get r c = .unset)

/-! Every command. -/

/-- 60_exceptions.md R303: an engine step that ends with an error sets STATUS.ERR to its code, so ERRF reads 1, sets
STATUS.LAST_OPC to the opcode byte and BUSY to 0, and changes nothing else. -/
def Obligations.ErrorChangesOnlyStatus : Prop :=
  ∀ (s t : State) (rest : List Turn),
    s.fault = none → s.busy = true → s.schedule = .engine :: rest → step s = .next t → t.fault = none → t.err ≠ .none →
    t = { s with schedule := rest, err := t.err, lastOpc := s.pending.extractLsb' 0 8, busy := false } ∧
    t.status.getLsbD 1 = true

/-- 40_control.md R121, R124: every command ends in a next state; it is completed with LAST_OPC written, or a model fault is
recorded with no other change. -/
def Obligations.EveryCommandEnds : Prop :=
  ∀ (i : Instr) (s : State), s.fault = none → ∃ t, exec i s = .next t ∧
    ((t.fault = none ∧ t.busy = false ∧ t.lastOpc = s.pending.extractLsb' 0 8) ∨
      (∃ f, t = { s with fault := some f }))

/-- 20_memory.md R63 and 60_exceptions.md R306: the one model fault of a command is UninitRead of an undefined byte of M, and
it changes nothing else. -/
def Obligations.CommandFaultIsUninitRead : Prop :=
  ∀ (i : Instr) (s t : State) (f : Fault), s.fault = none → exec i s = .next t → t.fault = some f →
    ∃ a, f = .uninitRead a ∧ a < s.params.memSize ∧ s.mem.read a = none ∧ t = { s with fault := some f }

/-- 20_memory.md R63 and 60_exceptions.md R302: a command whose checks before the reads pass, and whose source region holds an
undefined byte, records UninitRead of the first such byte and changes nothing else. -/
def Obligations.UndefinedSourceByteFaults : Prop :=
  ∀ (i : Instr) (s : State) (d : Nat),
    s.fault = none → readsItsSource i s → s.arg0.toNat + s.arg1.toNat ≤ s.params.memSize → d < s.arg1.toNat →
    (∀ j, j < d → s.mem.read (s.arg0.toNat + j) ≠ none) → s.mem.read (s.arg0.toNat + d) = none →
    exec i s = .next { s with fault := some (.uninitRead (s.arg0.toNat + d)) }

/-- 10_state.md R24, R26, R27, R28, R37: no command writes CMD, PENDING, ARG0 to ARG2, VERSION, ECLEVEL or BS_BASE. The last
five conjuncts are the model's own fields. -/
def Obligations.CommandsKeepHostRegisters : Prop :=
  ∀ (i : Instr) (s t : State), exec i s = .next t →
    t.cmd = s.cmd ∧ t.pending = s.pending ∧ t.arg0 = s.arg0 ∧ t.arg1 = s.arg1 ∧ t.arg2 = s.arg2 ∧
    t.version = s.version ∧ t.ecLevel = s.ecLevel ∧ t.bsBase = s.bsBase ∧
    t.params = s.params ∧ t.schedule = s.schedule ∧ t.lastRead = s.lastRead ∧ t.program = s.program ∧
    t.programError = s.programError

/-- 45_matrix.md R256, 10_state.md R31, R32, R33: only MX_BUILD and MX_MAKE write MTX, MASK, MODCOUNT and MTX_STATE, and only
when they succeed. -/
def Obligations.OnlyBuildsWriteMatrix : Prop :=
  ∀ (i : Instr) (s t : State), exec i s = .next t → (buildsMatrix i = false ∨ t.err ≠ .none ∨ t.fault ≠ none) →
    s.fault = none → t.mtx = s.mtx ∧ t.mask = s.mask ∧ t.modCount = s.modCount ∧ t.mtxState = s.mtxState

/-- 10_state.md R29, R30, R34, R38: who writes the GEN store, the PENALTY registers and BS_LEN. 42_rs.md R165, 44_packer.md
R201, R210 to R216, 45_matrix.md R254, 46_mask.md R286: which commands write M; that no other does is 40_control.md R121, which
applies only the writes the command's rule lists. -/
def Obligations.OnlyOwnersWriteStores : Prop :=
  ∀ (i : Instr) (s t : State), exec i s = .next t →
    (buildsGenerator i = false → t.gen = s.gen ∧ t.genLen = s.genLen) ∧
    (i ≠ .mxMake → t.penalty = s.penalty) ∧
    (writesStreamLength i = false → t.bsLen = s.bsLen) ∧
    (storesToM i = false → t.mem = s.mem)

/-! NOP and the GF(256) unit. -/

/-- 40_control.md R122 and 44_packer.md R210: NOP clears ERR and has no effect beyond STATUS; BS_CLEAR also sets BS_LEN to 0,
and touches no byte of M. -/
def Obligations.NopAndBsClearResults : Prop :=
  ∀ s : State, exec .nop s = .next (ended .none s) ∧ exec .bsClear s = .next (ended .none { s with bsLen := 0 })

/-- 41_gf.md R140, R145: GF_EXP A gives α to the power A in RES0. -/
def Obligations.GfExpResult : Prop :=
  ∀ (a : Byte) (s : State), exec (.gfExp a) s = .next (ended .none { s with res0 := (alphaPow a.toNat).setWidth 32 })

/-- 41_gf.md R141, R144, R146: GF_LOG A gives the exponent below 255 whose power of α is A, and DOMAIN_ERROR for A = 0. -/
def Obligations.GfLogResult : Prop :=
  ∀ (a : Byte) (s : State),
    (a = 0 → failsWith (.gfLog a) s .domainError) ∧
    (a ≠ 0 → ∃ n, n < 255 ∧ alphaPow n = a ∧ exec (.gfLog a) s = .next (ended .none { s with res0 := .ofNat 32 n }))

/-- 41_gf.md R142, R147: GF_MUL A, B gives the product of A and B as polynomials over GF(2) modulo 0x11D. -/
def Obligations.GfMulResult : Prop :=
  ∀ (a b : Byte) (s : State),
    exec (.gfMul a b) s = .next (ended .none { s with res0 := (fieldProduct a b).setWidth 32 })

/-- 41_gf.md R148: the field laws of ⊗ and ⊕. -/
def Obligations.FieldLaws : Prop :=
  (∀ a b : Byte, gfMul a b = gfMul b a) ∧ (∀ a b c : Byte, gfMul (gfMul a b) c = gfMul a (gfMul b c)) ∧
  (∀ a : Byte, gfMul 1 a = a) ∧ (∀ a : Byte, gfMul a 0 = 0) ∧
  (∀ a b c : Byte, gfMul a (b ^^^ c) = gfMul a b ^^^ gfMul a c) ∧
  (∀ a : Byte, a ≠ 0 → gfMul a (gexp (255 - logRom a)) = 1) ∧
  (∀ a : Byte, a ≠ 0 → ∃ n, n < 255 ∧ expRom n = a ∧ ∀ n', n' < 255 → expRom n' = a → n' = n)

/-! The Reed–Solomon unit. -/

/-- 42_rs.md R164: RS_GEN k for a legal k fills the GEN store with Gen(k), and is INVALID_PARAMETER otherwise. -/
def Obligations.RsGenResult : Prop :=
  ∀ (k : Byte) (s : State),
    (k = 0 ∨ s.params.ecMax < k.toNat → failsWith (.rsGen k) s .invalidParameter) ∧
    (k ≠ 0 → k.toNat ≤ s.params.ecMax →
      ∃ g, exec (.rsGen k) s = .next (ended .none { s with gen := g, genLen := k, res0 := k.setWidth 32 }) ∧
        g.length = s.params.ecMax + 1 ∧ g.take (k.toNat + 1) = genPoly k.toNat ∧ ∀ j, k.toNat < j → g.getD j 0 = 0)

/-- 42_rs.md R163: Gen(k) is monic of degree exactly k and α^0, …, α^(k−1) are its roots. -/
def Obligations.GeneratorIsMonicWithItsRoots : Prop :=
  ∀ k, 1 ≤ k → k ≤ 254 →
    (genPoly k).length = k + 1 ∧ (genPoly k).headD 0 = 1 ∧ ∀ i, i < k → valueAt (genPoly k) (alphaPow i) = 0

/-- 42_rs.md R165, R167: RS_DIV with a generator in GEN and both regions in M writes the k bytes of RSRem at ARG2; every other
byte of M, and every register but RES0 and STATUS, is unchanged. -/
def Obligations.RsDivResult : Prop :=
  ∀ (s : State) (data : List Byte),
    s.GeneratorSound → s.genLen ≠ 0 → data.length = s.arg1.toNat → Holds s.mem s.arg0.toNat data →
    s.arg0.toNat + s.arg1.toNat ≤ s.params.memSize → s.arg2.toNat + s.genLen.toNat ≤ s.params.memSize →
    ∃ t, exec .rsDiv s = .next t ∧ t = ended .none { s with mem := t.mem, res0 := s.genLen.setWidth 32 } ∧
      (rsRem data s.genLen.toNat).length = s.genLen.toNat ∧
      Holds t.mem s.arg2.toNat (rsRem data s.genLen.toNat) ∧
      ∀ b, b < s.arg2.toNat ∨ s.arg2.toNat + s.genLen.toNat ≤ b → t.mem.read b = s.mem.read b

/-- 42_rs.md R165: the errors of RS_DIV, in order. -/
def Obligations.RsDivErrors : Prop :=
  ∀ s : State,
    (s.genLen = 0 → failsWith .rsDiv s .notReady) ∧
    (s.genLen ≠ 0 → s.params.memSize < s.arg0.toNat + s.arg1.toNat ∨ s.params.memSize < s.arg2.toNat + s.genLen.toNat →
      failsWith .rsDiv s .addressError)

/-- 42_rs.md R167: data followed by its EC bytes is a codeword: k bytes, and α^0, …, α^(k−1) are roots. Leading zero bytes
change nothing, and zero data gives zero bytes. -/
def Obligations.RemainderMakesCodeword : Prop :=
  ∀ (data : List Byte) (k : Nat), 1 ≤ k → k ≤ 254 →
    (rsRem data k).length = k ∧ (∀ i, i < k → valueAt (data ++ rsRem data k) (alphaPow i) = 0) ∧
    rsRem (0 :: data) k = rsRem data k ∧ (∀ n, rsRem (List.replicate n 0) k = List.replicate k 0)

/-! The BCH unit. -/

/-- 43_bch.md R183, R185: BCH_FMT E, M gives the word of the format table. R182, R184: BCH_VER V gives the 18-bit word with V
in bits [17:12] that is a multiple of 0x1F25. -/
def Obligations.BchResults : Prop :=
  (∀ (e : BitVec 2) (m : BitVec 3) (s : State),
    exec (.bchFmt e m) s =
      .next (ended .none { s with res0 := .ofNat 32 ((formatTable.getD e.toNat []).getD m.toNat 0) })) ∧
  (∀ (v : BitVec 6) (s : State), ∃ w q,
    exec (.bchVer v) s = .next (ended .none { s with res0 := .ofNat 32 w }) ∧
    w < 2 ^ 18 ∧ w >>> 12 = v.toNat ∧ q < 64 ∧ carryless 0x1F25 q = w)

/-! The host program. -/

/-- 30_encoding.md R99: what a step of a host program does. An access is the host's access; WAIT reads STATUS and stays at its
place while BUSY = 1; CHECK's read of STATUS ends the program with that error when ERR is not 0; a finished program does
nothing. Then what every operation expands to: a command, with R95, into the writes of the ARG registers it reads, in order and
only as many as operands are given, then CMD, then WAIT; and the three examples of R99. The model's choices: the fields that hold
the program and its error, and that WAIT and CHECK decide in the step that reads STATUS (log entry 12); that the value read is
in lastRead (log entry 2); the turn the program has on an empty schedule (log entry 1); and that an access which faults is
taken off the program too (log entry 15). -/
def Obligations.HostProgramSteps : Prop :=
  (∀ (s : State) (rest : List Turn) (p : List HostStep), s.fault = none →
    (s.schedule = .program :: rest ∨ (s.schedule = [] ∧ rest = [] ∧ s.busy = false)) →
    (∀ a, s.program = .access a :: p → step s = step { s with schedule := .host a :: rest, program := p }) ∧
    (s.program = .wait :: p → step s = .next { s with
      schedule := rest
      lastRead := some s.status
      program := if s.busy then .wait :: p else p }) ∧
    (s.program = .check :: p → step s = .next { s with
      schedule := rest
      lastRead := some s.status
      program := if s.err = .none then p else []
      programError := if s.err = .none then s.programError else some s.err.code }) ∧
    (s.program = [] → step s = .next { s with schedule := rest })) ∧
  (∀ (r : HostReg) (v : Word),
    (HostOp.wr r v).steps = [.access (.write r.offset 32 v)] ∧ (HostOp.rd r).steps = [.access (.read r.offset 32)]) ∧
  (∀ (a : Nat) (bs : List Byte),
    (HostOp.wrb a bs).steps.length = bs.length ∧
    ∀ k (h : k < bs.length),
      (HostOp.wrb a bs).steps[k]? = some (.access (.write (0x10000 + a + k) 8 (bs[k].setWidth 32)))) ∧
  (∀ a n : Nat,
    (HostOp.rdb a n).steps.length = n ∧
    ∀ k, k < n → (HostOp.rdb a n).steps[k]? = some (.access (.read (0x10000 + a + k) 8))) ∧
  HostOp.wait.steps = [.wait] ∧ HostOp.check.steps = [.wait, .check] ∧
  (∀ (i : Instr) (args : List Word), (HostOp.command i args).steps =
    ((args.take (argCount i)).zipIdx.map fun p => HostStep.access (.write (0x008 + 4 * p.2) 32 p.1)) ++
      [.access (.write 0x000 32 (encode i)), .wait]) ∧
  (∀ src d dst : Word, (HostOp.command .rsDiv [src, d, dst]).steps =
    [.access (.write 0x008 32 src), .access (.write 0x00C 32 d), .access (.write 0x010 32 dst),
      .access (.write 0x000 32 0x00000021), .wait]) ∧
  (HostOp.command (.gfMul 0x53 0xCA) []).steps = [.access (.write 0x000 32 0x00CA5312), .wait] ∧
  (HostOp.command (.mxBuild 2 1) [0x100, 26]).steps =
    [.access (.write 0x008 32 0x100), .access (.write 0x00C 32 26), .access (.write 0x000 32 0x00000A50), .wait] ∧
  (∀ (s : State) (ops : List HostOp),
    s.runHost ops = { s with program := ops.flatMap HostOp.steps, programError := none })

/-! The packer. -/

/-- 44_packer.md R200, R201, R211: BS_PUT appends the low n bits of ARG0, most significant first. -/
def Obligations.BsPutResult : Prop :=
  ∀ s : State,
    s.arg1.toNat ≤ 32 → s.bsBase.toNat + bytesFor (s.bsLen.toNat + s.arg1.toNat) ≤ s.params.memSize →
    (s.arg1 = 0 ∨ PartialByteDefined s) →
    ∃ t bs, exec .bsPut s = .next t ∧
      t = ended .none { s with
        mem := t.mem
        bsLen := .ofNat 32 (s.bsLen.toNat + s.arg1.toNat)
        res0 := .ofNat 32 (s.bsLen.toNat + s.arg1.toNat) } ∧
      bs.length = s.arg1.toNat ∧ (∀ i (h : i < bs.length), bs[i] = s.arg0.getLsbD (s.arg1.toNat - 1 - i)) ∧ Appends s t bs

/-- 44_packer.md R209, R212 to R215: a segment command whose checks all pass appends the mode indicator, the count and the
payload, and answers the bits appended and the character count. -/
def Obligations.SegmentResult : Prop :=
  ∀ (mode : Mode) (s : State) (src : List Byte) (body : List Bool),
    1 ≤ s.version.toNat → s.version.toNat ≤ 40 → s.arg0.toNat + s.arg1.toNat ≤ s.params.memSize →
    src.length = s.arg1.toNat → Holds s.mem s.arg0.toNat src → payload mode src = some body →
    charCount mode s.arg1.toNat < 2 ^ lengthWidth mode s.version.toNat →
    s.bsBase.toNat + bytesFor (s.bsLen.toNat + (4 + lengthWidth mode s.version.toNat + body.length)) ≤ s.params.memSize →
    PartialByteDefined s →
    ∃ t, exec (segCommand mode) s = .next t ∧
      t = ended .none { s with
        mem := t.mem
        bsLen := .ofNat 32 (s.bsLen.toNat + (4 + lengthWidth mode s.version.toNat + body.length))
        res0 := .ofNat 32 (4 + lengthWidth mode s.version.toNat + body.length)
        res1 := .ofNat 32 (charCount mode s.arg1.toNat) } ∧
      Appends s t (bits (modeIndicator mode) 4 ++
        bits (charCount mode s.arg1.toNat) (lengthWidth mode s.version.toNat) ++ body)

/-- 44_packer.md R209 and 60_exceptions.md R302: the errors of the segment commands, each when the checks before it pass. -/
def Obligations.SegmentErrorsInOrder : Prop :=
  ∀ (mode : Mode) (s : State),
    (s.version.toNat < 1 ∨ 40 < s.version.toNat → failsWith (segCommand mode) s .invalidParameter) ∧
    (1 ≤ s.version.toNat → s.version.toNat ≤ 40 →
      (s.params.memSize < s.arg0.toNat + s.arg1.toNat → failsWith (segCommand mode) s .addressError) ∧
      (∀ src, s.arg0.toNat + s.arg1.toNat ≤ s.params.memSize → src.length = s.arg1.toNat → Holds s.mem s.arg0.toNat src →
        (payload mode src = none → failsWith (segCommand mode) s .unsupportedCharacter) ∧
        (∀ body, payload mode src = some body →
          (2 ^ lengthWidth mode s.version.toNat ≤ charCount mode s.arg1.toNat →
            failsWith (segCommand mode) s .capacityExceeded) ∧
          (charCount mode s.arg1.toNat < 2 ^ lengthWidth mode s.version.toNat →
            s.params.memSize <
              s.bsBase.toNat + bytesFor (s.bsLen.toNat + (4 + lengthWidth mode s.version.toNat + body.length)) →
            failsWith (segCommand mode) s .addressError))))

/-- 44_packer.md R202 to R209, R218, R219: which sources each mode supports and the payload bits of those, the mode indicators
and the widths of the length indicator, what the character count is, and the bit strings they are written as; and R217: how
many bits each payload has. -/
def Obligations.PayloadsAndHeaderFields : Prop :=
  (∀ (mode : Mode) (src : List Byte),
    (Supported mode src → payload mode src = some (payloadBits mode src)) ∧
    (¬Supported mode src → payload mode src = none)) ∧
  (∀ v w : Nat, bits v w = msbFirst v w) ∧
  [Mode.numeric, .alphanumeric, .byte, .kanji].map modeIndicator = [1, 2, 4, 8] ∧
  (∀ (mode : Mode) (v : Nat), 1 ≤ v → v ≤ 40 →
    lengthWidth mode v = (widthBands mode).getD (if v ≤ 9 then 0 else if v ≤ 26 then 1 else 2) 0) ∧
  (∀ (mode : Mode) (len : Nat), charCount mode len = if mode = .kanji then len / 2 else len) ∧
  (∀ src : List Byte,
    (∀ body, payload .numeric src = some body →
      body.length = 10 * (src.length / 3) + [0, 4, 7].getD (src.length % 3) 0) ∧
    (∀ body, payload .alphanumeric src = some body → body.length = 11 * (src.length / 2) + 6 * (src.length % 2)) ∧
    (∃ body, payload .byte src = some body ∧ body.length = 8 * src.length) ∧
    (∀ body, payload .kanji src = some body → src.length % 2 = 0 ∧ body.length = 13 * (src.length / 2)) ∧
    (payload .numeric src ≠ none ↔ ∀ b ∈ src, 0x30 ≤ b.toNat ∧ b.toNat ≤ 0x39))

/-- 44_packer.md R218 and 92_eei_decisions.md D23: a Kanji value fits 13 bits, and different codes have different values. -/
def Obligations.KanjiValuesFitAndDiffer : Prop :=
  (∀ c x, kanjiValue c = some x → x < 2 ^ 13) ∧
  (∀ c c' x, kanjiValue c = some x → kanjiValue c' = some x → c = c')

/-- 44_packer.md R216: BS_FINAL appends the terminator, the zero bits and the pad bytes, and the stream is then C bytes. -/
def Obligations.BsFinalResult : Prop :=
  ∀ s : State,
    s.bsLen.toNat ≤ 8 * s.arg0.toNat → s.bsBase.toNat + s.arg0.toNat ≤ s.params.memSize → PartialByteDefined s →
    ∃ t term fill pads, exec .bsFinal s = .next t ∧
      t = ended .none { s with
        mem := t.mem
        bsLen := .ofNat 32 (8 * s.arg0.toNat)
        res0 := .ofNat 32 pads
        res1 := .ofNat 32 term } ∧
      term = (if s.bsLen.toNat + 4 ≤ 8 * s.arg0.toNat then 4 else 0) ∧ fill < 8 ∧
      (s.bsLen.toNat + term + fill) % 8 = 0 ∧ s.bsLen.toNat + term + fill + 8 * pads = 8 * s.arg0.toNat ∧
      Appends s t (List.replicate (term + fill) false ++
        (List.range pads).flatMap fun i => if i % 2 = 0 then [true, true, true, false, true, true, false, false]
          else [false, false, false, true, false, false, false, true])

/-- 44_packer.md R211, R216: the errors of BS_PUT and BS_FINAL, in order. -/
def Obligations.PackerErrors : Prop :=
  ∀ s : State,
    (32 < s.arg1.toNat → failsWith .bsPut s .invalidParameter) ∧
    (s.arg1.toNat ≤ 32 → s.params.memSize < s.bsBase.toNat + bytesFor (s.bsLen.toNat + s.arg1.toNat) →
      failsWith .bsPut s .addressError) ∧
    (8 * s.arg0.toNat < s.bsLen.toNat → failsWith .bsFinal s .capacityExceeded) ∧
    (s.bsLen.toNat ≤ 8 * s.arg0.toNat → s.params.memSize < s.bsBase.toNat + s.arg0.toNat →
      failsWith .bsFinal s .addressError)

/-- 44_packer.md R201 and 20_memory.md R63: a packer command that appends bits to a stream whose partial byte is undefined
records UninitRead of that byte and changes nothing else. -/
def Obligations.UndefinedPartialByteFaults : Prop :=
  ∀ s : State,
    s.fault = none → s.bsLen.toNat % 8 ≠ 0 → s.mem.read (s.bsBase.toNat + s.bsLen.toNat / 8) = none →
    let stopped : State := { s with fault := some (.uninitRead (s.bsBase.toNat + s.bsLen.toNat / 8)) }
    (0 < s.arg1.toNat → s.arg1.toNat ≤ 32 →
      s.bsBase.toNat + bytesFor (s.bsLen.toNat + s.arg1.toNat) ≤ s.params.memSize → exec .bsPut s = .next stopped) ∧
    (s.bsLen.toNat ≤ 8 * s.arg0.toNat → s.bsBase.toNat + s.arg0.toNat ≤ s.params.memSize →
      exec .bsFinal s = .next stopped) ∧
    (∀ (mode : Mode) (src : List Byte) (body : List Bool),
      1 ≤ s.version.toNat → s.version.toNat ≤ 40 → s.arg0.toNat + s.arg1.toNat ≤ s.params.memSize →
      src.length = s.arg1.toNat → Holds s.mem s.arg0.toNat src → payload mode src = some body →
      charCount mode s.arg1.toNat < 2 ^ lengthWidth mode s.version.toNat →
      s.bsBase.toNat + bytesFor (s.bsLen.toNat + (4 + lengthWidth mode s.version.toNat + body.length)) ≤
        s.params.memSize →
      exec (segCommand mode) s = .next stopped)

/-! The matrix and mask units. -/

/-- 45_matrix.md R254: MX_BUILD whose checks pass puts the render in MTX and writes MASK, MODCOUNT, MTX_STATE, RES0, RES1. -/
def Obligations.MxBuildResult : Prop :=
  ∀ (m : BitVec 3) (t : BitVec 1) (s : State) (cw : List Byte),
    1 ≤ s.version.toNat → s.version.toNat ≤ 40 → s.arg0.toNat + s.arg1.toNat ≤ s.params.memSize →
    cw.length = s.arg1.toNat → Holds s.mem s.arg0.toNat cw → 8 * s.arg1.toNat ≤ dataModules s.version.toNat →
    exec (.mxBuild m t) s = .next (ended .none { s with
      mtx := render s.version.toNat s.ecLevel cw m (t == 1)
      mask := m
      modCount := .ofNat 8 (4 * s.version.toNat + 17)
      mtxState := if t = 1 then .test else .final
      res0 := .ofNat 32 (4 * s.version.toNat + 17)
      res1 := .ofNat 32 (dataModules s.version.toNat) })

/-- 46_mask.md R280 to R284, R286: MX_MAKE whose checks pass chooses the least penalty of the eight test renders, the lowest
mask of equals,
and puts the final render with that mask in MTX. -/
def Obligations.MxMakeResult : Prop :=
  ∀ (s : State) (cw : List Byte),
    1 ≤ s.version.toNat → s.version.toNat ≤ 40 → s.arg0.toNat + s.arg1.toNat ≤ s.params.memSize →
    cw.length = s.arg1.toNat → Holds s.mem s.arg0.toNat cw → 8 * s.arg1.toNat ≤ dataModules s.version.toNat →
    let p (m : BitVec 3) : Nat :=
      totalPenalty (4 * s.version.toNat + 17) (darkIn (render s.version.toNat s.ecLevel cw m true))
    ∃ best : BitVec 3,
      (∀ m, p best ≤ p m) ∧ (∀ m, m < best → p best < p m) ∧
      exec .mxMake s = .next (ended .none { s with
        mtx := render s.version.toNat s.ecLevel cw best false
        penalty := Vector.ofFn fun m : Fin 8 => .ofNat 32 (p (.ofNat 3 m.val))
        mask := best
        modCount := .ofNat 8 (4 * s.version.toNat + 17)
        mtxState := .final
        res0 := best.setWidth 32
        res1 := .ofNat 32 (p best) })

/-- 46_mask.md R280 to R285 and 45_matrix.md R255: MX_SCORE and MX_GET with a matrix in MTX. -/
def Obligations.MxScoreAndGetResults : Prop :=
  ∀ s : State, s.mtxState ≠ .none →
    exec .mxScore s = .next (ended .none { s with
      res0 := .ofNat 32 (totalPenalty s.modCount.toNat (darkIn s.mtx))
      res1 := .ofNat 32 (darkCells s.modCount.toNat (darkIn s.mtx)) }) ∧
    (s.arg0.toNat < s.modCount.toNat → s.arg1.toNat < s.modCount.toNat →
      exec .mxGet s = .next (ended .none { s with
        res0 := if s.mtx.get s.arg0.toNat s.arg1.toNat = .dark then 1 else 0 }))

/-- 45_matrix.md R254, R255 and 46_mask.md R285, R286: the errors of the matrix and mask commands, in order. -/
def Obligations.MatrixErrors : Prop :=
  ∀ (s : State) (i : Instr),
    (s.mtxState = .none → failsWith .mxScore s .notReady ∧ failsWith .mxGet s .notReady) ∧
    (s.mtxState ≠ .none → s.modCount.toNat ≤ s.arg0.toNat ∨ s.modCount.toNat ≤ s.arg1.toNat →
      failsWith .mxGet s .outOfRange) ∧
    (buildsMatrix i = true →
      (s.version.toNat < 1 ∨ 40 < s.version.toNat → failsWith i s .invalidParameter) ∧
      (1 ≤ s.version.toNat → s.version.toNat ≤ 40 →
        (s.params.memSize < s.arg0.toNat + s.arg1.toNat → failsWith i s .addressError) ∧
        (∀ cw, s.arg0.toNat + s.arg1.toNat ≤ s.params.memSize → cw.length = s.arg1.toNat →
          Holds s.mem s.arg0.toNat cw → dataModules s.version.toNat < 8 * s.arg1.toNat →
          failsWith i s .capacityExceeded)))

/-- 45_matrix.md R257: a render leaves no cell of the N × N matrix unset. -/
def Obligations.RenderResolvesEveryCell : Prop :=
  ∀ (v : Nat) (e : BitVec 2) (cw : List Byte) (m : BitVec 3) (test : Bool) (r c : Nat),
    1 ≤ v → v ≤ 40 → r < 4 * v + 17 → c < 4 * v + 17 → (render v e cw m test).get r c ≠ .unset

/-- 45_matrix.md R250: a test render has every format cell, the fixed module and every version cell light, and every other
cell as the final render with the same mask has it. -/
def Obligations.TestRenderDiffersOnlyInInformation : Prop :=
  ∀ (v : Nat) (e : BitVec 2) (cw : List Byte) (m : BitVec 3) (r c : Nat), 1 ≤ v → v ≤ 40 →
    ((r, c) ∈ informationCells v → (render v e cw m true).get r c = .light) ∧
    ((r, c) ∉ informationCells v → (render v e cw m true).get r c = (render v e cw m false).get r c)

/-- 45_matrix.md R242 to R248: the function modules of a final render. -/
def Obligations.FinalRenderFunctionModules : Prop :=
  ∀ (v : Nat) (e : BitVec 2) (cw : List Byte) (m : BitVec 3), 1 ≤ v → v ≤ 40 →
    let n := 4 * v + 17
    let g := render v e cw m false
    let word := (formatTable.getD e.toNat []).getD m.toNat 0
    (∀ corner ∈ [(0, 0), (0, n - 7), (n - 7, 0)], ∀ r c, r < n → c < n → ringOf corner.1 corner.2 3 r c ≤ 4 →
      (isDark g r c ↔ ringOf corner.1 corner.2 3 r c ≠ 2 ∧ ringOf corner.1 corner.2 3 r c ≠ 4)) ∧
    (∀ r0 ∈ alignOf v, ∀ c0 ∈ alignOf v, (r0, c0) ∉ [(6, 6), (6, n - 7), (n - 7, 6)] →
      ∀ r c, ringOf r0 c0 0 r c ≤ 2 → (isDark g r c ↔ ringOf r0 c0 0 r c ≠ 1)) ∧
    (∀ i, 8 ≤ i → i ≤ n - 9 → (isDark g 6 i ↔ i % 2 = 0) ∧ (isDark g i 6 ↔ i % 2 = 0)) ∧
    (∀ i (p q : Nat × Nat), (verticalFormat n)[i]? = some p → (horizontalFormat n)[i]? = some q →
      (isDark g p.1 p.2 ↔ word.testBit i = true) ∧ (isDark g q.1 q.2 ↔ word.testBit i = true)) ∧
    isDark g (n - 8) 8 ∧
    (7 ≤ v → ∀ i, i < 18 →
      (isDark g (i / 3) (n - 11 + i % 3) ↔ (versionWord v).testBit i = true) ∧
      (isDark g (n - 11 + i % 3) (i / 3) ↔ (versionWord v).testBit i = true))

/-- 45_matrix.md R249, R252, R258: the data cells, which are all cells but the function cells, in the order of the traversal,
are DM(v) many; cell k holds bit k of the codewords, most significant bit of each byte first and 0 beyond them, flipped where
the mask holds. -/
def Obligations.DataBitsFollowTheTraversal : Prop :=
  ∀ (v : Nat) (e : BitVec 2) (cw : List Byte) (m : BitVec 3) (test : Bool), 1 ≤ v → v ≤ 40 →
    let cells := (dataOrder (4 * v + 17)).filter fun (p : Nat × Nat) => decide ¬isFunctionCell v p.1 p.2
    cells.length = dataModules v ∧
    ∀ k (h : k < cells.length),
      (isDark (render v e cw m test) cells[k].1 cells[k].2 ↔
        ((cw.getD (k / 8) 0).getMsbD (k % 8) = true ↔ ¬Flips m cells[k].1 cells[k].2))

/-- 45_matrix.md R249, R252: test renders with two masks differ at a data cell exactly where the mask
predicates differ; no mask touches a function module. -/
def Obligations.MasksFlipDataCells : Prop :=
  ∀ (v : Nat) (e : BitVec 2) (cw : List Byte) (m m' : BitVec 3) (r c : Nat), 1 ≤ v → v ≤ 40 →
    r < 4 * v + 17 → c < 4 * v + 17 →
    (isFunctionCell v r c → (render v e cw m true).get r c = (render v e cw m' true).get r c) ∧
    (¬isFunctionCell v r c →
      ((render v e cw m true).get r c = (render v e cw m' true).get r c ↔ (Flips m r c ↔ Flips m' r c)))

/-- 46_mask.md R280 to R284: the penalty the model computes is the sum of the four rules, for every matrix; 10_state.md R44: it
fits a register for every side of a legal version. -/
def Obligations.PenaltyFitsRegister : Prop :=
  ∀ (n : Nat) (g : Grid),
    penalty n g = totalPenalty n (darkIn g) ∧ (21 ≤ n → n ≤ 177 → totalPenalty n (darkIn g) < 2 ^ 32)

/-! Invariants of the step. -/

/-- The four invariants hold right after reset (70_reset_and_hazards.md R330, 20_memory.md R61, 10_state.md R30, R32, R38,
44_packer.md R201), and the parameters are legal (00_scope.md R6). That State.reset has the default parameters is the model's
choice (log entry 3), and so is the canonical form of M (log entry 7). -/
def Obligations.ResetIsSound : Prop :=
  State.reset.params.Legal ∧ State.reset.MemorySound ∧ State.reset.GeneratorSound ∧ State.reset.StreamSound ∧
    State.reset.MatrixSound

/-- 20_memory.md R60, R61, R62: every step keeps every defined byte of M inside MEM_SIZE. That it keeps M in canonical form,
addresses strictly rising, is about the model's own form of M (log entry 7). -/
def Obligations.StepKeepsMemorySound : Prop :=
  ∀ s t : State, s.MemorySound → step s = .next t → t.MemorySound

/-- 10_state.md R30, R38: every step keeps the GEN store holding Gen(GEN_LEN), and 0 beyond. -/
def Obligations.StepKeepsGeneratorSound : Prop :=
  ∀ s t : State, s.params.Legal → s.GeneratorSound → step s = .next t → t.GeneratorSound

/-- 44_packer.md R201 and the note of 95_test_vectors.md V-PK-8: every step keeps the bit stream inside M and its bytes
defined. -/
def Obligations.StepKeepsStreamSound : Prop :=
  ∀ s t : State, s.params.Legal → s.StreamSound → step s = .next t → t.StreamSound

/-- 10_state.md R32, R39 and 45_matrix.md R257: every step keeps MODCOUNT the side of a legal version and the matrix fully
resolved. -/
def Obligations.StepKeepsMatrixSound : Prop :=
  ∀ s t : State, s.MatrixSound → step s = .next t → t.MatrixSound
end

