-- ==== Sys2Proof/Laws/Decode.lean ====
section
/-! SUPPORT. What the word of each format holds, and that an encoded command selects its row of the opcode table. -/

namespace Sys2Proof

/-- Every command passes the check of its written form: an Instr holds each field at its own width (30_encoding.md R98). -/
theorem Instr.wellFormed (i : Instr) : i.WellFormed := by
  cases i <;>
    simp only [Instr.WellFormed, Written.wf, Instr.written, Mnemonic.immediateWidths, List.length_cons, List.length_nil,
      beq_self_eq_true, List.zip_cons_cons, List.zip_nil_right, List.all_cons, List.all_nil, BitVec.isLt,
      decide_true, Bool.and_self]

/-- The row of a mnemonic. -/
def rowOf (n : Mnemonic) : OpcodeRow :=
  (opcodeTable.find? fun r => r.mnemonic == n).getD ⟨.nop, 0, 0⟩

/-! Outside its fields, the word of a format is its opcode alone (30_encoding.md R91, R94). -/

theorem wordA_and_mask (a opc : Byte) : wordA a opc &&& 0xFFFF00FF#32 = wordZ opc := by
  have hm : 0xFFFF00FF#32 = 0xFFFF#16 ++ 0x00#8 ++ 0xFF#8 := by decide
  have hx : opc &&& 0xFF#8 = opc := BitVec.and_allOnes
  unfold wordA wordZ
  rw [hm, BitVec.and_append, BitVec.and_append, hx]
  simp

theorem wordAB_and_mask (a b opc : Byte) : wordAB a b opc &&& 0xFF0000FF#32 = wordZ opc := by
  have hm : 0xFF0000FF#32 = 0xFF#8 ++ 0x00#8 ++ 0x00#8 ++ 0xFF#8 := by decide
  have hx : opc &&& 0xFF#8 = opc := BitVec.and_allOnes
  unfold wordAB wordZ
  rw [hm, BitVec.and_append, BitVec.and_append, BitVec.and_append, hx]
  simp

theorem wordF_and_mask (e : BitVec 2) (m : BitVec 3) (opc : Byte) : wordF e m opc &&& 0xFFFFE0FF#32 = wordZ opc := by
  have hm : 0xFFFFE0FF#32 = 0x7FFFF#19 ++ 0#2 ++ 0#3 ++ 0xFF#8 := by decide
  have hx : opc &&& 0xFF#8 = opc := BitVec.and_allOnes
  unfold wordF wordZ
  rw [hm, BitVec.and_append, BitVec.and_append, BitVec.and_append, hx]
  simp

theorem wordV_and_mask (v : BitVec 6) (opc : Byte) : wordV v opc &&& 0xFFFFC0FF#32 = wordZ opc := by
  have hm : 0xFFFFC0FF#32 = 0x3FFFF#18 ++ 0#6 ++ 0xFF#8 := by decide
  have hx : opc &&& 0xFF#8 = opc := BitVec.and_allOnes
  unfold wordV wordZ
  rw [hm, BitVec.and_append, BitVec.and_append, hx]
  simp

theorem wordX_and_mask (m : BitVec 3) (t : BitVec 1) (opc : Byte) : wordX m t opc &&& 0xFFFFF0FF#32 = wordZ opc := by
  have hm : 0xFFFFF0FF#32 = 0xFFFFF#20 ++ 0#1 ++ 0#3 ++ 0xFF#8 := by decide
  have hx : opc &&& 0xFF#8 = opc := BitVec.and_allOnes
  unfold wordX wordZ
  rw [hm, BitVec.and_append, BitVec.and_append, BitVec.and_append, hx]
  simp

/-! An encoded command selects its row. -/

theorem pattern_gfExp : wordZ Mnemonic.gfExp.opcode = (rowOf .gfExp).pattern := by decide
theorem pattern_gfLog : wordZ Mnemonic.gfLog.opcode = (rowOf .gfLog).pattern := by decide
theorem pattern_gfMul : wordZ Mnemonic.gfMul.opcode = (rowOf .gfMul).pattern := by decide
theorem pattern_rsGen : wordZ Mnemonic.rsGen.opcode = (rowOf .rsGen).pattern := by decide
theorem pattern_bchFmt : wordZ Mnemonic.bchFmt.opcode = (rowOf .bchFmt).pattern := by decide
theorem pattern_bchVer : wordZ Mnemonic.bchVer.opcode = (rowOf .bchVer).pattern := by decide
theorem pattern_mxBuild : wordZ Mnemonic.mxBuild.opcode = (rowOf .mxBuild).pattern := by decide

theorem selects_gfExp (a : Byte) : (rowOf .gfExp).selects (encode (.gfExp a)) = true :=
  beq_iff_eq.mpr ((wordA_and_mask a _).trans (pattern_gfExp))

theorem selects_gfLog (a : Byte) : (rowOf .gfLog).selects (encode (.gfLog a)) = true :=
  beq_iff_eq.mpr ((wordA_and_mask a _).trans (pattern_gfLog))

theorem selects_gfMul (a b : Byte) : (rowOf .gfMul).selects (encode (.gfMul a b)) = true :=
  beq_iff_eq.mpr ((wordAB_and_mask a b _).trans (pattern_gfMul))

theorem selects_rsGen (k : Byte) : (rowOf .rsGen).selects (encode (.rsGen k)) = true :=
  beq_iff_eq.mpr ((wordA_and_mask k _).trans (pattern_rsGen))

theorem selects_bchFmt (e : BitVec 2) (m : BitVec 3) : (rowOf .bchFmt).selects (encode (.bchFmt e m)) = true :=
  beq_iff_eq.mpr ((wordF_and_mask e m _).trans (pattern_bchFmt))

theorem selects_bchVer (v : BitVec 6) : (rowOf .bchVer).selects (encode (.bchVer v)) = true :=
  beq_iff_eq.mpr ((wordV_and_mask v _).trans (pattern_bchVer))

theorem selects_mxBuild (m : BitVec 3) (t : BitVec 1) : (rowOf .mxBuild).selects (encode (.mxBuild m t)) = true :=
  beq_iff_eq.mpr ((wordX_and_mask m t _).trans (pattern_mxBuild))

end Sys2Proof
end

