-- ==== Sys2Proof/Laws/State.lean ====
section
/-! SUPPORT. One lemma per field for each update of the state that commands and host accesses share, so that no later proof
unfolds a record update. -/

namespace Sys2Proof.Machine

open Sys2Proof

/-! What completion (40_control.md R121): ERR, LAST_OPC and BUSY changes, and nothing else. -/

@[simp] theorem State.complete_cmd (s : State) (code : ErrCode) : (s.complete code).cmd = s.cmd := rfl
@[simp] theorem State.complete_busy (s : State) (code : ErrCode) : (s.complete code).busy = false := rfl
@[simp] theorem State.complete_pending (s : State) (code : ErrCode) : (s.complete code).pending = s.pending := rfl
@[simp] theorem State.complete_err (s : State) (code : ErrCode) : (s.complete code).err = code := rfl
@[simp] theorem State.complete_lastOpc (s : State) (code : ErrCode) : (s.complete code).lastOpc = opcOf s.pending := rfl
@[simp] theorem State.complete_arg0 (s : State) (code : ErrCode) : (s.complete code).arg0 = s.arg0 := rfl
@[simp] theorem State.complete_arg1 (s : State) (code : ErrCode) : (s.complete code).arg1 = s.arg1 := rfl
@[simp] theorem State.complete_arg2 (s : State) (code : ErrCode) : (s.complete code).arg2 = s.arg2 := rfl
@[simp] theorem State.complete_res0 (s : State) (code : ErrCode) : (s.complete code).res0 = s.res0 := rfl
@[simp] theorem State.complete_res1 (s : State) (code : ErrCode) : (s.complete code).res1 = s.res1 := rfl
@[simp] theorem State.complete_version (s : State) (code : ErrCode) : (s.complete code).version = s.version := rfl
@[simp] theorem State.complete_ecLevel (s : State) (code : ErrCode) : (s.complete code).ecLevel = s.ecLevel := rfl
@[simp] theorem State.complete_bsBase (s : State) (code : ErrCode) : (s.complete code).bsBase = s.bsBase := rfl
@[simp] theorem State.complete_bsLen (s : State) (code : ErrCode) : (s.complete code).bsLen = s.bsLen := rfl
@[simp] theorem State.complete_genLen (s : State) (code : ErrCode) : (s.complete code).genLen = s.genLen := rfl
@[simp] theorem State.complete_gen (s : State) (code : ErrCode) : (s.complete code).gen = s.gen := rfl
@[simp] theorem State.complete_mask (s : State) (code : ErrCode) : (s.complete code).mask = s.mask := rfl
@[simp] theorem State.complete_modCount (s : State) (code : ErrCode) : (s.complete code).modCount = s.modCount := rfl
@[simp] theorem State.complete_mtxState (s : State) (code : ErrCode) : (s.complete code).mtxState = s.mtxState := rfl
@[simp] theorem State.complete_mtx (s : State) (code : ErrCode) : (s.complete code).mtx = s.mtx := rfl
@[simp] theorem State.complete_penalty (s : State) (code : ErrCode) : (s.complete code).penalty = s.penalty := rfl
@[simp] theorem State.complete_mem (s : State) (code : ErrCode) : (s.complete code).mem = s.mem := rfl
@[simp] theorem State.complete_fault (s : State) (code : ErrCode) : (s.complete code).fault = s.fault := rfl
@[simp] theorem State.complete_params (s : State) (code : ErrCode) : (s.complete code).params = s.params := rfl
@[simp] theorem State.complete_schedule (s : State) (code : ErrCode) : (s.complete code).schedule = s.schedule := rfl
@[simp] theorem State.complete_lastRead (s : State) (code : ErrCode) : (s.complete code).lastRead = s.lastRead := rfl
@[simp] theorem State.complete_program (s : State) (code : ErrCode) : (s.complete code).program = s.program := rfl
@[simp] theorem State.complete_programError (s : State) (code : ErrCode) : (s.complete code).programError = s.programError := rfl

/-! What a recorded model fault (60_exceptions.md R306): FAULT changes, and nothing else. -/

@[simp] theorem State.recordFault_cmd (s : State) (f : Fault) : (s.recordFault f).cmd = s.cmd := rfl
@[simp] theorem State.recordFault_busy (s : State) (f : Fault) : (s.recordFault f).busy = s.busy := rfl
@[simp] theorem State.recordFault_pending (s : State) (f : Fault) : (s.recordFault f).pending = s.pending := rfl
@[simp] theorem State.recordFault_err (s : State) (f : Fault) : (s.recordFault f).err = s.err := rfl
@[simp] theorem State.recordFault_lastOpc (s : State) (f : Fault) : (s.recordFault f).lastOpc = s.lastOpc := rfl
@[simp] theorem State.recordFault_arg0 (s : State) (f : Fault) : (s.recordFault f).arg0 = s.arg0 := rfl
@[simp] theorem State.recordFault_arg1 (s : State) (f : Fault) : (s.recordFault f).arg1 = s.arg1 := rfl
@[simp] theorem State.recordFault_arg2 (s : State) (f : Fault) : (s.recordFault f).arg2 = s.arg2 := rfl
@[simp] theorem State.recordFault_res0 (s : State) (f : Fault) : (s.recordFault f).res0 = s.res0 := rfl
@[simp] theorem State.recordFault_res1 (s : State) (f : Fault) : (s.recordFault f).res1 = s.res1 := rfl
@[simp] theorem State.recordFault_version (s : State) (f : Fault) : (s.recordFault f).version = s.version := rfl
@[simp] theorem State.recordFault_ecLevel (s : State) (f : Fault) : (s.recordFault f).ecLevel = s.ecLevel := rfl
@[simp] theorem State.recordFault_bsBase (s : State) (f : Fault) : (s.recordFault f).bsBase = s.bsBase := rfl
@[simp] theorem State.recordFault_bsLen (s : State) (f : Fault) : (s.recordFault f).bsLen = s.bsLen := rfl
@[simp] theorem State.recordFault_genLen (s : State) (f : Fault) : (s.recordFault f).genLen = s.genLen := rfl
@[simp] theorem State.recordFault_gen (s : State) (f : Fault) : (s.recordFault f).gen = s.gen := rfl
@[simp] theorem State.recordFault_mask (s : State) (f : Fault) : (s.recordFault f).mask = s.mask := rfl
@[simp] theorem State.recordFault_modCount (s : State) (f : Fault) : (s.recordFault f).modCount = s.modCount := rfl
@[simp] theorem State.recordFault_mtxState (s : State) (f : Fault) : (s.recordFault f).mtxState = s.mtxState := rfl
@[simp] theorem State.recordFault_mtx (s : State) (f : Fault) : (s.recordFault f).mtx = s.mtx := rfl
@[simp] theorem State.recordFault_penalty (s : State) (f : Fault) : (s.recordFault f).penalty = s.penalty := rfl
@[simp] theorem State.recordFault_mem (s : State) (f : Fault) : (s.recordFault f).mem = s.mem := rfl
@[simp] theorem State.recordFault_fault (s : State) (f : Fault) : (s.recordFault f).fault = s.fault.or (some f) := rfl
@[simp] theorem State.recordFault_params (s : State) (f : Fault) : (s.recordFault f).params = s.params := rfl
@[simp] theorem State.recordFault_schedule (s : State) (f : Fault) : (s.recordFault f).schedule = s.schedule := rfl
@[simp] theorem State.recordFault_lastRead (s : State) (f : Fault) : (s.recordFault f).lastRead = s.lastRead := rfl
@[simp] theorem State.recordFault_program (s : State) (f : Fault) : (s.recordFault f).program = s.program := rfl
@[simp] theorem State.recordFault_programError (s : State) (f : Fault) : (s.recordFault f).programError = s.programError := rfl

/-! What command issue (40_control.md R120): CMD, PENDING and BUSY changes, and nothing else. -/

@[simp] theorem State.issue_cmd (s : State) (w : Word) : (s.issue w).cmd = w := rfl
@[simp] theorem State.issue_busy (s : State) (w : Word) : (s.issue w).busy = true := rfl
@[simp] theorem State.issue_pending (s : State) (w : Word) : (s.issue w).pending = w := rfl
@[simp] theorem State.issue_err (s : State) (w : Word) : (s.issue w).err = s.err := rfl
@[simp] theorem State.issue_lastOpc (s : State) (w : Word) : (s.issue w).lastOpc = s.lastOpc := rfl
@[simp] theorem State.issue_arg0 (s : State) (w : Word) : (s.issue w).arg0 = s.arg0 := rfl
@[simp] theorem State.issue_arg1 (s : State) (w : Word) : (s.issue w).arg1 = s.arg1 := rfl
@[simp] theorem State.issue_arg2 (s : State) (w : Word) : (s.issue w).arg2 = s.arg2 := rfl
@[simp] theorem State.issue_res0 (s : State) (w : Word) : (s.issue w).res0 = s.res0 := rfl
@[simp] theorem State.issue_res1 (s : State) (w : Word) : (s.issue w).res1 = s.res1 := rfl
@[simp] theorem State.issue_version (s : State) (w : Word) : (s.issue w).version = s.version := rfl
@[simp] theorem State.issue_ecLevel (s : State) (w : Word) : (s.issue w).ecLevel = s.ecLevel := rfl
@[simp] theorem State.issue_bsBase (s : State) (w : Word) : (s.issue w).bsBase = s.bsBase := rfl
@[simp] theorem State.issue_bsLen (s : State) (w : Word) : (s.issue w).bsLen = s.bsLen := rfl
@[simp] theorem State.issue_genLen (s : State) (w : Word) : (s.issue w).genLen = s.genLen := rfl
@[simp] theorem State.issue_gen (s : State) (w : Word) : (s.issue w).gen = s.gen := rfl
@[simp] theorem State.issue_mask (s : State) (w : Word) : (s.issue w).mask = s.mask := rfl
@[simp] theorem State.issue_modCount (s : State) (w : Word) : (s.issue w).modCount = s.modCount := rfl
@[simp] theorem State.issue_mtxState (s : State) (w : Word) : (s.issue w).mtxState = s.mtxState := rfl
@[simp] theorem State.issue_mtx (s : State) (w : Word) : (s.issue w).mtx = s.mtx := rfl
@[simp] theorem State.issue_penalty (s : State) (w : Word) : (s.issue w).penalty = s.penalty := rfl
@[simp] theorem State.issue_mem (s : State) (w : Word) : (s.issue w).mem = s.mem := rfl
@[simp] theorem State.issue_fault (s : State) (w : Word) : (s.issue w).fault = s.fault := rfl
@[simp] theorem State.issue_params (s : State) (w : Word) : (s.issue w).params = s.params := rfl
@[simp] theorem State.issue_schedule (s : State) (w : Word) : (s.issue w).schedule = s.schedule := rfl
@[simp] theorem State.issue_lastRead (s : State) (w : Word) : (s.issue w).lastRead = s.lastRead := rfl
@[simp] theorem State.issue_program (s : State) (w : Word) : (s.issue w).program = s.program := rfl
@[simp] theorem State.issue_programError (s : State) (w : Word) : (s.issue w).programError = s.programError := rfl

/-! What a new matrix (45_matrix.md R254): MTX, MASK, MODCOUNT and MTX_STATE changes, and nothing else. -/

@[simp] theorem State.withMatrix_cmd (s : State) (g : Grid) (m : BitVec 3) (x : MtxState) : (s.withMatrix g m x).cmd = s.cmd := rfl
@[simp] theorem State.withMatrix_busy (s : State) (g : Grid) (m : BitVec 3) (x : MtxState) : (s.withMatrix g m x).busy = s.busy := rfl
@[simp] theorem State.withMatrix_pending (s : State) (g : Grid) (m : BitVec 3) (x : MtxState) : (s.withMatrix g m x).pending = s.pending := rfl
@[simp] theorem State.withMatrix_err (s : State) (g : Grid) (m : BitVec 3) (x : MtxState) : (s.withMatrix g m x).err = s.err := rfl
@[simp] theorem State.withMatrix_lastOpc (s : State) (g : Grid) (m : BitVec 3) (x : MtxState) : (s.withMatrix g m x).lastOpc = s.lastOpc := rfl
@[simp] theorem State.withMatrix_arg0 (s : State) (g : Grid) (m : BitVec 3) (x : MtxState) : (s.withMatrix g m x).arg0 = s.arg0 := rfl
@[simp] theorem State.withMatrix_arg1 (s : State) (g : Grid) (m : BitVec 3) (x : MtxState) : (s.withMatrix g m x).arg1 = s.arg1 := rfl
@[simp] theorem State.withMatrix_arg2 (s : State) (g : Grid) (m : BitVec 3) (x : MtxState) : (s.withMatrix g m x).arg2 = s.arg2 := rfl
@[simp] theorem State.withMatrix_res0 (s : State) (g : Grid) (m : BitVec 3) (x : MtxState) : (s.withMatrix g m x).res0 = s.res0 := rfl
@[simp] theorem State.withMatrix_res1 (s : State) (g : Grid) (m : BitVec 3) (x : MtxState) : (s.withMatrix g m x).res1 = s.res1 := rfl
@[simp] theorem State.withMatrix_version (s : State) (g : Grid) (m : BitVec 3) (x : MtxState) : (s.withMatrix g m x).version = s.version := rfl
@[simp] theorem State.withMatrix_ecLevel (s : State) (g : Grid) (m : BitVec 3) (x : MtxState) : (s.withMatrix g m x).ecLevel = s.ecLevel := rfl
@[simp] theorem State.withMatrix_bsBase (s : State) (g : Grid) (m : BitVec 3) (x : MtxState) : (s.withMatrix g m x).bsBase = s.bsBase := rfl
@[simp] theorem State.withMatrix_bsLen (s : State) (g : Grid) (m : BitVec 3) (x : MtxState) : (s.withMatrix g m x).bsLen = s.bsLen := rfl
@[simp] theorem State.withMatrix_genLen (s : State) (g : Grid) (m : BitVec 3) (x : MtxState) : (s.withMatrix g m x).genLen = s.genLen := rfl
@[simp] theorem State.withMatrix_gen (s : State) (g : Grid) (m : BitVec 3) (x : MtxState) : (s.withMatrix g m x).gen = s.gen := rfl
@[simp] theorem State.withMatrix_mask (s : State) (g : Grid) (m : BitVec 3) (x : MtxState) : (s.withMatrix g m x).mask = m := rfl
@[simp] theorem State.withMatrix_modCount (s : State) (g : Grid) (m : BitVec 3) (x : MtxState) : (s.withMatrix g m x).modCount = .ofNat 8 (sideOf s.v) := rfl
@[simp] theorem State.withMatrix_mtxState (s : State) (g : Grid) (m : BitVec 3) (x : MtxState) : (s.withMatrix g m x).mtxState = x := rfl
@[simp] theorem State.withMatrix_mtx (s : State) (g : Grid) (m : BitVec 3) (x : MtxState) : (s.withMatrix g m x).mtx = g := rfl
@[simp] theorem State.withMatrix_penalty (s : State) (g : Grid) (m : BitVec 3) (x : MtxState) : (s.withMatrix g m x).penalty = s.penalty := rfl
@[simp] theorem State.withMatrix_mem (s : State) (g : Grid) (m : BitVec 3) (x : MtxState) : (s.withMatrix g m x).mem = s.mem := rfl
@[simp] theorem State.withMatrix_fault (s : State) (g : Grid) (m : BitVec 3) (x : MtxState) : (s.withMatrix g m x).fault = s.fault := rfl
@[simp] theorem State.withMatrix_params (s : State) (g : Grid) (m : BitVec 3) (x : MtxState) : (s.withMatrix g m x).params = s.params := rfl
@[simp] theorem State.withMatrix_schedule (s : State) (g : Grid) (m : BitVec 3) (x : MtxState) : (s.withMatrix g m x).schedule = s.schedule := rfl
@[simp] theorem State.withMatrix_lastRead (s : State) (g : Grid) (m : BitVec 3) (x : MtxState) : (s.withMatrix g m x).lastRead = s.lastRead := rfl
@[simp] theorem State.withMatrix_program (s : State) (g : Grid) (m : BitVec 3) (x : MtxState) : (s.withMatrix g m x).program = s.program := rfl
@[simp] theorem State.withMatrix_programError (s : State) (g : Grid) (m : BitVec 3) (x : MtxState) : (s.withMatrix g m x).programError = s.programError := rfl

/-! Taking a turn away (20_memory.md R75): the schedule changes, and nothing else. -/

@[simp] theorem State.withTurns_cmd (s : State) (rest : List Turn) : (s.withTurns rest).cmd = s.cmd := rfl
@[simp] theorem State.withTurns_busy (s : State) (rest : List Turn) : (s.withTurns rest).busy = s.busy := rfl
@[simp] theorem State.withTurns_pending (s : State) (rest : List Turn) : (s.withTurns rest).pending = s.pending := rfl
@[simp] theorem State.withTurns_err (s : State) (rest : List Turn) : (s.withTurns rest).err = s.err := rfl
@[simp] theorem State.withTurns_lastOpc (s : State) (rest : List Turn) : (s.withTurns rest).lastOpc = s.lastOpc := rfl
@[simp] theorem State.withTurns_arg0 (s : State) (rest : List Turn) : (s.withTurns rest).arg0 = s.arg0 := rfl
@[simp] theorem State.withTurns_arg1 (s : State) (rest : List Turn) : (s.withTurns rest).arg1 = s.arg1 := rfl
@[simp] theorem State.withTurns_arg2 (s : State) (rest : List Turn) : (s.withTurns rest).arg2 = s.arg2 := rfl
@[simp] theorem State.withTurns_res0 (s : State) (rest : List Turn) : (s.withTurns rest).res0 = s.res0 := rfl
@[simp] theorem State.withTurns_res1 (s : State) (rest : List Turn) : (s.withTurns rest).res1 = s.res1 := rfl
@[simp] theorem State.withTurns_version (s : State) (rest : List Turn) : (s.withTurns rest).version = s.version := rfl
@[simp] theorem State.withTurns_ecLevel (s : State) (rest : List Turn) : (s.withTurns rest).ecLevel = s.ecLevel := rfl
@[simp] theorem State.withTurns_bsBase (s : State) (rest : List Turn) : (s.withTurns rest).bsBase = s.bsBase := rfl
@[simp] theorem State.withTurns_bsLen (s : State) (rest : List Turn) : (s.withTurns rest).bsLen = s.bsLen := rfl
@[simp] theorem State.withTurns_genLen (s : State) (rest : List Turn) : (s.withTurns rest).genLen = s.genLen := rfl
@[simp] theorem State.withTurns_gen (s : State) (rest : List Turn) : (s.withTurns rest).gen = s.gen := rfl
@[simp] theorem State.withTurns_mask (s : State) (rest : List Turn) : (s.withTurns rest).mask = s.mask := rfl
@[simp] theorem State.withTurns_modCount (s : State) (rest : List Turn) : (s.withTurns rest).modCount = s.modCount := rfl
@[simp] theorem State.withTurns_mtxState (s : State) (rest : List Turn) : (s.withTurns rest).mtxState = s.mtxState := rfl
@[simp] theorem State.withTurns_mtx (s : State) (rest : List Turn) : (s.withTurns rest).mtx = s.mtx := rfl
@[simp] theorem State.withTurns_penalty (s : State) (rest : List Turn) : (s.withTurns rest).penalty = s.penalty := rfl
@[simp] theorem State.withTurns_mem (s : State) (rest : List Turn) : (s.withTurns rest).mem = s.mem := rfl
@[simp] theorem State.withTurns_fault (s : State) (rest : List Turn) : (s.withTurns rest).fault = s.fault := rfl
@[simp] theorem State.withTurns_params (s : State) (rest : List Turn) : (s.withTurns rest).params = s.params := rfl
@[simp] theorem State.withTurns_schedule (s : State) (rest : List Turn) : (s.withTurns rest).schedule = rest := rfl
@[simp] theorem State.withTurns_lastRead (s : State) (rest : List Turn) : (s.withTurns rest).lastRead = s.lastRead := rfl
@[simp] theorem State.withTurns_program (s : State) (rest : List Turn) : (s.withTurns rest).program = s.program := rfl
@[simp] theorem State.withTurns_programError (s : State) (rest : List Turn) : (s.withTurns rest).programError = s.programError := rfl

/-! Moving the host program on (30_encoding.md R99): the program changes, and nothing else. -/

@[simp] theorem State.withProgram_cmd (s : State) (p : List HostStep) : (s.withProgram p).cmd = s.cmd := rfl
@[simp] theorem State.withProgram_busy (s : State) (p : List HostStep) : (s.withProgram p).busy = s.busy := rfl
@[simp] theorem State.withProgram_pending (s : State) (p : List HostStep) : (s.withProgram p).pending = s.pending := rfl
@[simp] theorem State.withProgram_err (s : State) (p : List HostStep) : (s.withProgram p).err = s.err := rfl
@[simp] theorem State.withProgram_lastOpc (s : State) (p : List HostStep) : (s.withProgram p).lastOpc = s.lastOpc := rfl
@[simp] theorem State.withProgram_arg0 (s : State) (p : List HostStep) : (s.withProgram p).arg0 = s.arg0 := rfl
@[simp] theorem State.withProgram_arg1 (s : State) (p : List HostStep) : (s.withProgram p).arg1 = s.arg1 := rfl
@[simp] theorem State.withProgram_arg2 (s : State) (p : List HostStep) : (s.withProgram p).arg2 = s.arg2 := rfl
@[simp] theorem State.withProgram_res0 (s : State) (p : List HostStep) : (s.withProgram p).res0 = s.res0 := rfl
@[simp] theorem State.withProgram_res1 (s : State) (p : List HostStep) : (s.withProgram p).res1 = s.res1 := rfl
@[simp] theorem State.withProgram_version (s : State) (p : List HostStep) : (s.withProgram p).version = s.version := rfl
@[simp] theorem State.withProgram_ecLevel (s : State) (p : List HostStep) : (s.withProgram p).ecLevel = s.ecLevel := rfl
@[simp] theorem State.withProgram_bsBase (s : State) (p : List HostStep) : (s.withProgram p).bsBase = s.bsBase := rfl
@[simp] theorem State.withProgram_bsLen (s : State) (p : List HostStep) : (s.withProgram p).bsLen = s.bsLen := rfl
@[simp] theorem State.withProgram_genLen (s : State) (p : List HostStep) : (s.withProgram p).genLen = s.genLen := rfl
@[simp] theorem State.withProgram_gen (s : State) (p : List HostStep) : (s.withProgram p).gen = s.gen := rfl
@[simp] theorem State.withProgram_mask (s : State) (p : List HostStep) : (s.withProgram p).mask = s.mask := rfl
@[simp] theorem State.withProgram_modCount (s : State) (p : List HostStep) : (s.withProgram p).modCount = s.modCount := rfl
@[simp] theorem State.withProgram_mtxState (s : State) (p : List HostStep) : (s.withProgram p).mtxState = s.mtxState := rfl
@[simp] theorem State.withProgram_mtx (s : State) (p : List HostStep) : (s.withProgram p).mtx = s.mtx := rfl
@[simp] theorem State.withProgram_penalty (s : State) (p : List HostStep) : (s.withProgram p).penalty = s.penalty := rfl
@[simp] theorem State.withProgram_mem (s : State) (p : List HostStep) : (s.withProgram p).mem = s.mem := rfl
@[simp] theorem State.withProgram_fault (s : State) (p : List HostStep) : (s.withProgram p).fault = s.fault := rfl
@[simp] theorem State.withProgram_params (s : State) (p : List HostStep) : (s.withProgram p).params = s.params := rfl
@[simp] theorem State.withProgram_schedule (s : State) (p : List HostStep) : (s.withProgram p).schedule = s.schedule := rfl
@[simp] theorem State.withProgram_lastRead (s : State) (p : List HostStep) : (s.withProgram p).lastRead = s.lastRead := rfl
@[simp] theorem State.withProgram_program (s : State) (p : List HostStep) : (s.withProgram p).program = p := rfl
@[simp] theorem State.withProgram_programError (s : State) (p : List HostStep) : (s.withProgram p).programError = s.programError := rfl

/-! Ending the host program (30_encoding.md R99): the program and the error it ended with change, and nothing else. -/

@[simp] theorem State.endProgram_cmd (s : State) : (s.endProgram).cmd = s.cmd := rfl
@[simp] theorem State.endProgram_busy (s : State) : (s.endProgram).busy = s.busy := rfl
@[simp] theorem State.endProgram_pending (s : State) : (s.endProgram).pending = s.pending := rfl
@[simp] theorem State.endProgram_err (s : State) : (s.endProgram).err = s.err := rfl
@[simp] theorem State.endProgram_lastOpc (s : State) : (s.endProgram).lastOpc = s.lastOpc := rfl
@[simp] theorem State.endProgram_arg0 (s : State) : (s.endProgram).arg0 = s.arg0 := rfl
@[simp] theorem State.endProgram_arg1 (s : State) : (s.endProgram).arg1 = s.arg1 := rfl
@[simp] theorem State.endProgram_arg2 (s : State) : (s.endProgram).arg2 = s.arg2 := rfl
@[simp] theorem State.endProgram_res0 (s : State) : (s.endProgram).res0 = s.res0 := rfl
@[simp] theorem State.endProgram_res1 (s : State) : (s.endProgram).res1 = s.res1 := rfl
@[simp] theorem State.endProgram_version (s : State) : (s.endProgram).version = s.version := rfl
@[simp] theorem State.endProgram_ecLevel (s : State) : (s.endProgram).ecLevel = s.ecLevel := rfl
@[simp] theorem State.endProgram_bsBase (s : State) : (s.endProgram).bsBase = s.bsBase := rfl
@[simp] theorem State.endProgram_bsLen (s : State) : (s.endProgram).bsLen = s.bsLen := rfl
@[simp] theorem State.endProgram_genLen (s : State) : (s.endProgram).genLen = s.genLen := rfl
@[simp] theorem State.endProgram_gen (s : State) : (s.endProgram).gen = s.gen := rfl
@[simp] theorem State.endProgram_mask (s : State) : (s.endProgram).mask = s.mask := rfl
@[simp] theorem State.endProgram_modCount (s : State) : (s.endProgram).modCount = s.modCount := rfl
@[simp] theorem State.endProgram_mtxState (s : State) : (s.endProgram).mtxState = s.mtxState := rfl
@[simp] theorem State.endProgram_mtx (s : State) : (s.endProgram).mtx = s.mtx := rfl
@[simp] theorem State.endProgram_penalty (s : State) : (s.endProgram).penalty = s.penalty := rfl
@[simp] theorem State.endProgram_mem (s : State) : (s.endProgram).mem = s.mem := rfl
@[simp] theorem State.endProgram_fault (s : State) : (s.endProgram).fault = s.fault := rfl
@[simp] theorem State.endProgram_params (s : State) : (s.endProgram).params = s.params := rfl
@[simp] theorem State.endProgram_schedule (s : State) : (s.endProgram).schedule = s.schedule := rfl
@[simp] theorem State.endProgram_lastRead (s : State) : (s.endProgram).lastRead = s.lastRead := rfl
@[simp] theorem State.endProgram_program (s : State) : (s.endProgram).program = [] := rfl
@[simp] theorem State.endProgram_programError (s : State) : (s.endProgram).programError = s.lastRead.map fun w => w.extractLsb' 8 8 := rfl

/-- Completing twice keeps the last code. -/
@[simp] theorem State.complete_complete (s : State) (c d : ErrCode) :
    (s.complete c).complete d = s.complete d := rfl

/-- The first fault recorded stays (10_state.md R42). -/
@[simp] theorem State.recordFault_fault_of_some {s : State} {f : Fault} (g : Fault) (h : s.fault = some f) :
    (s.recordFault g).fault = some f := by simp [h]

/-- In a clean state the recorded fault is the new one. -/
@[simp] theorem State.recordFault_fault_of_clean {s : State} (g : Fault) (h : s.Clean) :
    (s.recordFault g).fault = some g := by
  rw [State.recordFault_fault, h]; rfl

end Sys2Proof.Machine
end

