-- ==== Sys2Proof/Laws/Exec.lean ====
section
/-! SUPPORT. How a command ends: finish, and with it exec, always answers a next state, which is one of three. -/

namespace Sys2Proof.Machine

open Sys2Proof

@[simp] theorem finish_ok (s t : State) : finish s (.ok t) = .next (t.complete .none) := rfl

@[simp] theorem finish_err (s : State) (c : ErrCode) : finish s (.err c) = .next (s.complete c) := rfl

@[simp] theorem finish_fault (s : State) (f : Fault) : finish s (.fault f) = .next (s.recordFault f) := rfl

/-- The next state of a command is its effects completed with NONE, the old state completed with its error code, or the old
state with a model fault recorded (40_control.md R121). -/
theorem finish_next_iff {s u : State} {e : Execution} :
    finish s e = .next u ↔
      (∃ t, e = .ok t ∧ u = t.complete .none) ∨ (∃ c, e = .err c ∧ u = s.complete c) ∨
        (∃ f, e = .fault f ∧ u = s.recordFault f) := by
  cases e <;> simp [eq_comm]

/-- Every command ends in a next state (40_control.md R124). -/
theorem finish_answers (s : State) (e : Execution) : ∃ u, finish s e = .next u := by
  cases e <;> simp

/-- What exec answers is what finish makes of some execution of the command. -/
theorem exec_is_finish (i : Instr) (s : State) : ∃ e, exec i s = finish s e := by
  cases i <;>
    simp only [exec, execNop, execGfExp, execGfLog, execGfMul, execRsGen, execRsDiv, execBchFmt, execBchVer,
      execBsClear, execBsPut, execSegNum, execSegAlnum, execSegByte, execSegKanji, execBsFinal, execMxBuild,
      execMxScore, execMxMake, execMxGet] <;>
    exact ⟨_, rfl⟩

/-- exec never faults and never refuses. -/
theorem exec_answers (i : Instr) (s : State) : ∃ u, exec i s = .next u := by
  obtain ⟨e, he⟩ := exec_is_finish i s
  rw [he]; exact finish_answers s e

/-- What a turn does when no fault is recorded (20_memory.md R75, 40_control.md R121). -/
theorem takeTurn_engine {s : State} {rest : List Turn} (hf : s.fault = none) (h : s.schedule = .engine :: rest) :
    takeTurn s = engineTurn (s.withTurns rest) := by
  simp [takeTurn, h, hf]

theorem takeTurn_nil_busy {s : State} (hf : s.fault = none) (h : s.schedule = []) (hb : s.busy = true) :
    takeTurn s = engineTurn s := by
  simp [takeTurn, h, hf, hb, engineTurn]

theorem takeTurn_nil_idle {s : State} (hf : s.fault = none) (h : s.schedule = []) (hb : s.busy = false) :
    takeTurn s = .next s.programStep := by
  simp [takeTurn, h, hf, hb]

theorem takeTurn_program {s : State} {rest : List Turn} (hf : s.fault = none) (h : s.schedule = .program :: rest) :
    takeTurn s = .next (s.withTurns rest).programStep := by
  simp [takeTurn, h, hf]

theorem takeTurn_host {s : State} {a : HostAccess} {rest : List Turn} (hf : s.fault = none)
    (h : s.schedule = .host a :: rest) : takeTurn s = .next ((s.withTurns rest).hostAccess a) := by
  simp [takeTurn, h, hf]

theorem takeTurn_reset {s : State} {rest : List Turn} (h : s.schedule = .reset :: rest) :
    takeTurn s = .next (s.withTurns rest).resetInput := by
  simp [takeTurn, h]

/-- Everything a step can do: reset, stop at the recorded fault, a host access, a step of the host program, or an engine
turn. -/
theorem step_cases (s : State) :
    (∃ rest, s.schedule = .reset :: rest ∧ step s = .next (s.withTurns rest).resetInput) ∨
    (∃ f, s.fault = some f ∧ step s = .fault f) ∨
    (∃ a rest, s.fault = none ∧ s.schedule = .host a :: rest ∧
      step s = .next ((s.withTurns rest).hostAccess a)) ∨
    (∃ rest, s.fault = none ∧ (s.schedule = .program :: rest ∨ (s.schedule = [] ∧ rest = [] ∧ s.busy = false)) ∧
      step s = .next (s.withTurns rest).programStep) ∨
    (∃ rest, s.fault = none ∧ (s.schedule = .engine :: rest ∨ (s.schedule = [] ∧ rest = [] ∧ s.busy = true)) ∧
      step s = engineTurn (s.withTurns rest)) := by
  obtain hf | ⟨f, hf⟩ := Option.eq_none_or_eq_some s.fault
  · rcases hs : s.schedule with _ | ⟨_ | _ | _ | _, rest⟩
    · have h : s.withTurns [] = s := by rw [← hs]; rfl
      cases hb : s.busy
      · exact .inr (.inr (.inr (.inl ⟨[], hf, .inr ⟨rfl, rfl, rfl⟩, by rw [h]; exact takeTurn_nil_idle hf hs hb⟩)))
      · exact .inr (.inr (.inr (.inr ⟨[], hf, .inr ⟨rfl, rfl, rfl⟩, by rw [h]; exact takeTurn_nil_busy hf hs hb⟩)))
    · exact .inr (.inr (.inl ⟨_, rest, hf, rfl, takeTurn_host hf hs⟩))
    · exact .inr (.inr (.inr (.inl ⟨rest, hf, .inl rfl, takeTurn_program hf hs⟩)))
    · exact .inr (.inr (.inr (.inr ⟨rest, hf, .inl rfl, takeTurn_engine hf hs⟩)))
    · exact .inl ⟨rest, rfl, takeTurn_reset hs⟩
  · rcases hs : s.schedule with _ | ⟨_ | _ | _ | _, rest⟩
    case cons.reset => exact .inl ⟨rest, rfl, takeTurn_reset hs⟩
    all_goals exact .inr (.inl ⟨f, hf, by simp [step, takeTurn, hs, hf]⟩)

/-- A STATUS read is answered in every state, whatever BUSY is, and changes nothing else (70_reset_and_hazards.md R340). -/
theorem State.readStatus_eq (s : State) : s.readStatus = { s with lastRead := some s.status } := by
  have h : hostTarget s.params HostReg.status.offset 32 = .register .status := by
    simp [hostTarget, hostRegs, HostReg.offset, windowBase]
  simp [State.readStatus, State.hostAccess, State.idleAccess, h, State.readReg]

/-- STATUS[0] is BUSY (10_state.md R23). -/
theorem State.status_busy (s : State) : s.status.getLsbD 0 = s.busy := by
  unfold State.status
  rw [BitVec.getLsbD_append]
  cases s.busy <;> rfl

/-- STATUS[15:8] is ERR (10_state.md R23). -/
theorem State.status_err (s : State) : s.status.extractLsb' 8 8 = s.err.code := by
  apply BitVec.eq_of_getLsbD_eq
  intro i hi
  unfold State.status
  rw [BitVec.getLsbD_extractLsb']
  simp only [BitVec.getLsbD_append, hi, decide_true, Bool.true_and, show ¬8 + i < 1 by omega,
    show ¬8 + i - 1 < 1 by omega, show ¬8 + i - 1 - 1 < 6 by omega, if_false, if_true,
    show 8 + i - 1 - 1 - 6 = i by omega]

@[simp] theorem State.waitOver_readStatus (s : State) : s.readStatus.waitOver = !s.busy := by
  rw [← s.status_busy, s.readStatus_eq]; rfl

@[simp] theorem State.checkPasses_readStatus (s : State) : s.readStatus.checkPasses = (s.err.code == 0) := by
  rw [← s.status_err, s.readStatus_eq]; rfl

/-- Everything a step of the host program can do (30_encoding.md R99): nothing, one host access, or a STATUS read, after
which WAIT stays at its place while BUSY = 1 and CHECK ends the program with a nonzero ERR. -/
theorem programStep_cases (s : State) :
    (s.program = [] ∧ s.programStep = s) ∨
    (∃ a rest, s.program = .access a :: rest ∧ s.programStep = (s.withProgram rest).hostAccess a) ∨
    (∃ rest, s.program = .wait :: rest ∧
      s.programStep = { s with lastRead := some s.status, program := if s.busy then .wait :: rest else rest }) ∨
    (∃ rest, s.program = .check :: rest ∧
      s.programStep =
        if s.err.code = 0 then { s with lastRead := some s.status, program := rest }
        else { s with lastRead := some s.status, program := [], programError := some s.err.code }) := by
  rcases hp : s.program with _ | ⟨a | _ | _, rest⟩
  · exact .inl ⟨rfl, by simp [State.programStep, hp]⟩
  · exact .inr (.inl ⟨a, rest, rfl, by simp [State.programStep, hp]⟩)
  · refine .inr (.inr (.inl ⟨rest, rfl, ?_⟩))
    have h : s.programStep = if !s.busy then s.readStatus.withProgram rest else s.readStatus := by
      rw [← s.waitOver_readStatus]; simp [State.programStep, hp]
    rw [h, s.readStatus_eq, ← hp]
    cases s.busy <;> simp [State.withProgram]
  · refine .inr (.inr (.inr ⟨rest, rfl, ?_⟩))
    have h : s.programStep =
        if (s.err.code == 0) = true then s.readStatus.withProgram rest else s.readStatus.endProgram := by
      rw [← s.checkPasses_readStatus]; simp [State.programStep, hp]
    rw [h, s.readStatus_eq]
    by_cases h0 : s.err.code = 0 <;> simp [h0, State.withProgram, State.endProgram, State.status_err]

/-- What an engine's turn can do (40_control.md R121, R123). -/
theorem engineTurn_cases (s : State) :
    (s.busy = false ∧ engineTurn s = .next s) ∨
    (s.busy = true ∧ ∃ i, decode s.pending = .ok i ∧ engineTurn s = exec i s) ∨
    (s.busy = true ∧ ∃ r, decode s.pending = .error r ∧ engineTurn s = .next (s.complete .illegalCommand)) := by
  unfold engineTurn engineStep
  cases hb : s.busy
  · simp
  · cases hd : decode s.pending with
    | ok i => exact .inr (.inl ⟨rfl, i, rfl, by simp⟩)
    | error r => exact .inr (.inr ⟨rfl, r, rfl, by simp⟩)

end Sys2Proof.Machine
end

