-- ==== Sys2Proof/Laws/Grid.lean ====
section
/-! SUPPORT. The cells of a grid: what Put and PutIfUnset do, and that a set cell stays set through every placement step. -/

namespace Sys2Proof.Machine

open Sys2Proof

@[simp] theorem MtxCell.ofBool_ne_unset (x : Bool) : MtxCell.ofBool x ≠ .unset := by
  cases x <;> simp [MtxCell.ofBool]

@[simp] theorem Grid.get_unset (r c : Nat) : Grid.unset.get r c = .unset := by
  simp [Grid.get, Grid.unset]

/-- A cell outside the array is never set. -/
theorem Grid.get_outside (g : Grid) {r c : Nat} (h : ¬(r < 177 ∧ c < 177)) : g.get r c = .unset := by
  simp [Grid.get, h]

/-- What every cell holds after a Put (45_matrix.md R241). -/
theorem Grid.get_put (g : Grid) (r c : Nat) (x : Bool) (r' c' : Nat) :
    (g.put r c x).get r' c' =
      if (r' = r ∧ c' = c) ∧ (r < 177 ∧ c < 177) then MtxCell.ofBool x else g.get r' c' := by
  by_cases h : r < 177 ∧ c < 177
  · by_cases h' : r' < 177 ∧ c' < 177
    · simp only [Grid.put, Grid.get, h, h', and_self, dite_true, and_true]
      by_cases hr : r' = r
      · subst hr
        by_cases hc : c' = c
        · subst hc; simp
        · simp [hc, Ne.symm hc]
      · simp [hr, Ne.symm hr]
    · have hne : ¬((r' = r ∧ c' = c) ∧ (r < 177 ∧ c < 177)) := by
        rintro ⟨⟨rfl, rfl⟩, h2⟩; exact h' h2
      rw [if_neg hne, Grid.get_outside _ h', Grid.get_outside _ h']
  · simp [Grid.put, h]

theorem Grid.get_put_same (g : Grid) {r c : Nat} (x : Bool) (hr : r < 177) (hc : c < 177) :
    (g.put r c x).get r c = MtxCell.ofBool x := by simp [Grid.get_put, hr, hc]

theorem Grid.get_put_other (g : Grid) {r c r' c' : Nat} (x : Bool) (h : ¬(r' = r ∧ c' = c)) :
    (g.put r c x).get r' c' = g.get r' c' := by simp [Grid.get_put, h]

/-! A set cell stays set. -/

theorem Grid.put_keeps_set {g : Grid} {r c : Nat} (r' c' : Nat) (x : Bool) (h : g.get r c ≠ .unset) :
    (g.put r' c' x).get r c ≠ .unset := by
  rw [Grid.get_put]; split <;> simp [h]

/-- PutIfUnset does not change a set cell (45_matrix.md R241). -/
theorem Grid.putIfUnset_keeps {g : Grid} {r c : Nat} (r' c' : Nat) (x : Bool) (h : g.get r c ≠ .unset) :
    (g.putIfUnset r' c' x).get r c = g.get r c := by
  unfold Grid.putIfUnset
  split
  · rename_i hu
    refine Grid.get_put_other g x ?_
    rintro ⟨rfl, rfl⟩; exact h hu
  · rfl

theorem putAll_keeps_set {g : Grid} {r c : Nat} (ws : List CellWrite) (h : g.get r c ≠ .unset) :
    (putAll g ws).get r c ≠ .unset := by
  induction ws generalizing g with
  | nil => exact h
  | cons w ws ih => exact ih (Grid.put_keeps_set _ _ _ h)

theorem putAllIfUnset_keeps {g : Grid} {r c : Nat} (ws : List CellWrite) (h : g.get r c ≠ .unset) :
    (putAllIfUnset g ws).get r c = g.get r c := by
  induction ws generalizing g with
  | nil => rfl
  | cons w ws ih =>
    have hk := Grid.putIfUnset_keeps w.1 w.2.1 w.2.2 h
    show (putAllIfUnset (g.putIfUnset w.1 w.2.1 w.2.2) ws).get r c = _
    rw [ih (hk ▸ h), hk]

/-- A cell that one of the writes names is set afterwards. -/
theorem putAll_sets {g : Grid} {w : CellWrite} {ws : List CellWrite} (hw : w ∈ ws) (hr : w.1 < 177) (hc : w.2.1 < 177) :
    (putAll g ws).get w.1 w.2.1 ≠ .unset := by
  induction ws generalizing g with
  | nil => simp at hw
  | cons a ws ih =>
    show (putAll (g.put a.1 a.2.1 a.2.2) ws).get _ _ ≠ _
    rcases List.mem_cons.mp hw with rfl | hw
    · exact putAll_keeps_set ws (by rw [Grid.get_put_same _ _ hr hc]; simp)
    · exact ih hw

theorem putAllIfUnset_sets {g : Grid} {w : CellWrite} {ws : List CellWrite} (hw : w ∈ ws) (hr : w.1 < 177)
    (hc : w.2.1 < 177) : (putAllIfUnset g ws).get w.1 w.2.1 ≠ .unset := by
  induction ws generalizing g with
  | nil => simp at hw
  | cons a ws ih =>
    show (putAllIfUnset (g.putIfUnset a.1 a.2.1 a.2.2) ws).get _ _ ≠ _
    rcases List.mem_cons.mp hw with rfl | hw
    · have hset : (g.putIfUnset w.1 w.2.1 w.2.2).get w.1 w.2.1 ≠ .unset := by
        unfold Grid.putIfUnset
        split
        · rw [Grid.get_put_same _ _ hr hc]; simp
        · assumption
      rw [putAllIfUnset_keeps ws hset]
      exact hset
    · exact ih hw

/-- One visit of the traversal leaves a set cell as it is (45_matrix.md R249). -/
theorem placeBit_keeps {cw : List Byte} {m : BitVec 3} {acc : Grid × Nat} {r c : Nat} (cell : Nat × Nat)
    (h : acc.1.get r c ≠ .unset) : (placeBit cw m acc cell).1.get r c = acc.1.get r c := by
  unfold placeBit
  split
  · rename_i hu
    refine Grid.get_put_other _ _ ?_
    rintro ⟨rfl, rfl⟩; exact h hu
  · rfl

/-- A visited cell is set (45_matrix.md R249). -/
theorem placeBit_sets (cw : List Byte) (m : BitVec 3) (acc : Grid × Nat) {cell : Nat × Nat} (hr : cell.1 < 177)
    (hc : cell.2 < 177) : (placeBit cw m acc cell).1.get cell.1 cell.2 ≠ .unset := by
  unfold placeBit
  split
  · rw [Grid.get_put_same _ _ hr hc]; simp
  · assumption

/-- The whole traversal leaves set cells as they are (45_matrix.md R241, R249). -/
theorem placeBits_keeps {cw : List Byte} {m : BitVec 3} {acc : Grid × Nat} {r c : Nat} (cells : List (Nat × Nat))
    (h : acc.1.get r c ≠ .unset) : (cells.foldl (placeBit cw m) acc).1.get r c = acc.1.get r c := by
  induction cells generalizing acc with
  | nil => rfl
  | cons a cells ih =>
    have hk := placeBit_keeps (cw := cw) (m := m) a h
    rw [List.foldl_cons, ih (hk ▸ h), hk]

/-- Every cell of the traversal is set afterwards (45_matrix.md R257). -/
theorem placeBits_sets {cw : List Byte} {m : BitVec 3} {acc : Grid × Nat} {cells : List (Nat × Nat)} {cell : Nat × Nat}
    (hm : cell ∈ cells) (hr : cell.1 < 177) (hc : cell.2 < 177) :
    (cells.foldl (placeBit cw m) acc).1.get cell.1 cell.2 ≠ .unset := by
  induction cells generalizing acc with
  | nil => simp at hm
  | cons a cells ih =>
    rw [List.foldl_cons]
    rcases List.mem_cons.mp hm with rfl | hm
    · have hs := placeBit_sets cw m acc hr hc
      rw [placeBits_keeps cells hs]
      exact hs
    · exact ih hm

end Sys2Proof.Machine
end

