-- ==== Sys2Proof/Laws/Memory.lean ====
section
/-! SUPPORT. The bytes of M: a read after a write, the canonical form, and what readBytes and writeBytes do. -/

namespace Sys2Proof.Machine

open Sys2Proof

/-! One byte. -/

@[simp] theorem Memory.read_nil (a : Nat) : Memory.read [] a = none := rfl

theorem Memory.read_write_same (m : Memory) (a : Nat) (v : Byte) : (m.write a v).read a = some v := by
  induction m with
  | nil => simp [Memory.write, Memory.read]
  | cons c rest ih =>
    simp only [Memory.write]
    split
    · simp [Memory.read]
    · split
      · simp [Memory.read]
      · rename_i h1 h2
        simp [Memory.read, Ne.symm h2, ih]

theorem Memory.read_write_other (m : Memory) {a b : Nat} (v : Byte) (h : b ≠ a) :
    (m.write a v).read b = m.read b := by
  induction m with
  | nil => simp [Memory.write, Memory.read, Ne.symm h]
  | cons c rest ih =>
    simp only [Memory.write]
    split
    · simp [Memory.read, Ne.symm h]
    · split
      · rename_i h1 h2
        subst h2
        simp [Memory.read, Ne.symm h]
      · simp [Memory.read, ih]

/-- A read after a write. -/
theorem Memory.read_write (m : Memory) (a b : Nat) (v : Byte) :
    (m.write a v).read b = if b = a then some v else m.read b := by
  split
  · subst_vars; exact m.read_write_same _ v
  · exact m.read_write_other v ‹_›

/-- A write does not make a byte undefined (20_memory.md R61). -/
theorem Memory.read_write_defined {m : Memory} {b : Nat} (a : Nat) (v : Byte) (h : m.read b ≠ none) :
    (m.write a v).read b ≠ none := by
  rw [Memory.read_write]; split <;> simp_all

/-! The canonical form. -/

theorem Memory.mem_write {m : Memory} {a : Nat} {v : Byte} {c : Host.Cell} (h : c ∈ m.write a v) :
    c = (a, v) ∨ c ∈ m := by
  induction m with
  | nil => simpa [Memory.write] using h
  | cons d rest ih =>
    simp only [Memory.write] at h
    split at h
    · simpa using h
    · split at h
      · simp only [List.mem_cons] at h ⊢; tauto
      · simp only [List.mem_cons] at h ⊢
        rcases h with h | h
        · tauto
        · rcases ih h with h | h <;> tauto

theorem Memory.wf_write {m : Memory} (h : m.wf) (a : Nat) (v : Byte) : (m.write a v).wf := by
  induction m with
  | nil => simp [Memory.write, Memory.wf]
  | cons c rest ih =>
    obtain ⟨hc, hr⟩ := List.pairwise_cons.mp h
    simp only [Memory.write]
    split
    · rename_i hlt
      refine List.Pairwise.cons (fun d hd => ?_) h
      rcases List.mem_cons.mp hd with rfl | hd
      · exact hlt
      · exact Nat.lt_trans hlt (hc d hd)
    · split
      · rename_i _ he
        exact List.Pairwise.cons (fun d hd => he ▸ hc d hd) hr
      · rename_i h1 h2
        refine List.Pairwise.cons (fun d hd => ?_) (ih hr)
        rcases Memory.mem_write hd with rfl | hd
        · show c.1 < a; omega
        · exact hc d hd

theorem Memory.below_write {m : Memory} {n a : Nat} (h : m.below n) (ha : a < n) (v : Byte) :
    (m.write a v).below n := by
  intro c hc
  rcases Memory.mem_write hc with rfl | hc
  · exact ha
  · exact h c hc

/-! A run of bytes. -/

theorem Memory.wf_writeBytes {m : Memory} (h : m.wf) (a : Nat) (vs : List Byte) : (m.writeBytes a vs).wf := by
  induction vs generalizing m a with
  | nil => exact h
  | cons v vs ih => exact ih (Memory.wf_write h a v) (a + 1)

theorem Memory.below_writeBytes {m : Memory} {n a : Nat} (vs : List Byte) (h : m.below n)
    (ha : a + vs.length ≤ n) : (m.writeBytes a vs).below n := by
  induction vs generalizing m a with
  | nil => exact h
  | cons v vs ih =>
    simp only [List.length_cons] at ha
    exact ih (Memory.below_write h (by omega) v) (by omega)

/-- Outside the written bytes nothing changes. -/
theorem Memory.read_writeBytes_outside (m : Memory) {a b : Nat} (vs : List Byte)
    (h : b < a ∨ a + vs.length ≤ b) : (m.writeBytes a vs).read b = m.read b := by
  induction vs generalizing m a with
  | nil => rfl
  | cons v vs ih =>
    simp only [List.length_cons] at h
    simp only [Memory.writeBytes]
    rw [ih (m.write a v) (by omega), Memory.read_write_other _ _ (by omega)]

/-- Byte i of the written run. -/
theorem Memory.read_writeBytes_inside (m : Memory) (a : Nat) (vs : List Byte) {i : Nat} (h : i < vs.length) :
    (m.writeBytes a vs).read (a + i) = some vs[i] := by
  induction vs generalizing m a i with
  | nil => simp at h
  | cons v vs ih =>
    simp only [Memory.writeBytes]
    cases i with
    | zero =>
      rw [Memory.read_writeBytes_outside _ _ (by omega)]
      simpa using Memory.read_write_same m a v
    | succ i =>
      have := ih (m.write a v) (a + 1) (i := i) (by simpa using h)
      rw [show a + (i + 1) = a + 1 + i by omega, this]
      simp

theorem Memory.read_writeBytes_defined {m : Memory} {b : Nat} (a : Nat) (vs : List Byte) (h : m.read b ≠ none) :
    (m.writeBytes a vs).read b ≠ none := by
  induction vs generalizing m a with
  | nil => exact h
  | cons v vs ih => exact ih (a + 1) (Memory.read_write_defined a v h)

/-- readBytes answers bytes exactly when every byte of the region is defined, and then it answers them in order. -/
theorem Memory.readBytes_ok_iff (m : Memory) (a n : Nat) (bs : List Byte) :
    m.readBytes a n = .ok bs ↔ bs.length = n ∧ ∀ i (h : i < bs.length), m.read (a + i) = some bs[i] := by
  induction n generalizing a bs with
  | zero =>
    simp only [Memory.readBytes, Except.ok.injEq]
    constructor
    · rintro rfl; simp
    · rintro ⟨h, -⟩; exact (List.length_eq_zero_iff.mp h).symm
  | succ n ih =>
    simp only [Memory.readBytes]
    constructor
    · intro h
      split at h
      · cases h
      · rename_i b hb
        split at h
        · rename_i cs hcs
          cases h
          obtain ⟨hl, hg⟩ := (ih (a + 1) cs).mp hcs
          refine ⟨by simp [hl], fun i hi => ?_⟩
          cases i with
          | zero => simpa using hb
          | succ i =>
            have := hg i (by simpa using hi)
            simpa [Nat.add_assoc, Nat.add_comm 1 i] using this
        · cases h
    · rintro ⟨hl, hg⟩
      cases bs with
      | nil => simp at hl
      | cons b cs =>
        have h0 : m.read a = some b := hg 0 (by simp)
        have hcs : m.readBytes (a + 1) n = .ok cs := by
          refine (ih (a + 1) cs).mpr ⟨by simpa using hl, fun i hi => ?_⟩
          have := hg (i + 1) (by simpa using hi)
          simpa [Nat.add_assoc, Nat.add_comm 1 i] using this
        simp [h0, hcs]

theorem Memory.readBytes_length {m : Memory} {a n : Nat} {bs : List Byte} (h : m.readBytes a n = .ok bs) :
    bs.length = n := ((m.readBytes_ok_iff a n bs).mp h).1

/-- readBytes fails at an undefined byte of the region. -/
theorem Memory.readBytes_error {m : Memory} {a n x : Nat} (h : m.readBytes a n = .error x) :
    a ≤ x ∧ x < a + n ∧ m.read x = none := by
  induction n generalizing a with
  | zero => simp [Memory.readBytes] at h
  | succ n ih =>
    simp only [Memory.readBytes] at h
    split at h
    · rename_i hb
      cases h
      exact ⟨le_refl _, by omega, hb⟩
    · split at h
      · cases h
      · rename_i y hy
        cases h
        have := ih hy
        exact ⟨by omega, by omega, this.2.2⟩

end Sys2Proof.Machine
end

