-- ==== Sys2Proof/Laws/Packer.lean ====
section
/-! SUPPORT. What the packer's shared operations do: bit strings, WriteBits and SegPack. -/

namespace Sys2Proof.Machine

open Sys2Proof

@[simp] theorem bits_length (v w : Nat) : (bits v w).length = w := by simp [bits]

/-- Bit i of bits(v, w) is v[w−1−i] (44_packer.md R202). -/
theorem bits_getElem (v w : Nat) {i : Nat} (h : i < (bits v w).length) : (bits v w)[i] = v.testBit (w - 1 - i) := by
  simp [bits]

/-- Bit 7 − i of the byte is f i (44_packer.md R200). -/
theorem byteOfBits_getMsbD (f : Nat → Bool) {i : Nat} (h : i < 8) : (byteOfBits f).getMsbD i = f i := by
  unfold byteOfBits
  rw [BitVec.getMsbD_ofBoolListBE]
  match i, h with
  | 0, _ | 1, _ | 2, _ | 3, _ | 4, _ | 5, _ | 6, _ | 7, _ => rfl

@[simp] theorem streamBytes_length (p0 : Nat) (bs : List Bool) (old : Byte) :
    (streamBytes p0 bs old).length = (p0 + bs.length - 1) / 8 - p0 / 8 + 1 := by simp [streamBytes]

/-- The bytes written end where the stream ends: from p0 div 8 up to ceil(p1 / 8) (44_packer.md R201). -/
theorem streamBytes_end (p0 : Nat) (old : Byte) {bs : List Bool} (h : bs ≠ []) :
    p0 / 8 + (streamBytes p0 bs old).length = bytesFor (p0 + bs.length) := by
  have : 0 < bs.length := List.length_pos_iff.mpr h
  simp only [streamBytes_length, bytesFor]
  omega

/-- Bit i of byte k of the written bytes. -/
theorem streamBytes_bit (p0 : Nat) (bs : List Bool) (old : Byte) {k i : Nat} (hk : k < (streamBytes p0 bs old).length)
    (hi : i < 8) : ((streamBytes p0 bs old)[k]).getMsbD i = streamBit p0 bs old (8 * (p0 / 8 + k) + i) := by
  simp [streamBytes, byteOfBits_getMsbD _ hi]

/-- Everything WriteBits can do when it answers a state: nothing for no bits, else it writes the stream bytes and moves
BS_LEN (44_packer.md R201). -/
theorem State.writeBits_ok {s t : State} {bs : List Bool} (h : s.writeBits bs = .ok t) :
    (bs = [] ∧ t = s) ∨
    (bs ≠ [] ∧ ∃ old, s.partialByte = .ok old ∧
      t = { s with
        mem := s.mem.writeBytes (s.bsBase.toNat + s.bsLen.toNat / 8) (streamBytes s.bsLen.toNat bs old)
        bsLen := .ofNat 32 (s.bsLen.toNat + bs.length) }) := by
  unfold State.writeBits at h
  split at h
  · rename_i h0
    cases h
    exact .inl ⟨List.length_eq_zero_iff.mp h0, rfl⟩
  · rename_i h0
    split at h
    · cases h
    · rename_i old ho
      cases h
      exact .inr ⟨fun hb => h0 (by simp [hb]), old, ho, rfl⟩

/-- WriteBits fails only at an undefined partial byte (44_packer.md R201). -/
theorem State.writeBits_error {s : State} {bs : List Bool} {a : Nat} (h : s.writeBits bs = .error a) :
    bs ≠ [] ∧ s.bsLen.toNat % 8 ≠ 0 ∧ a = s.bsBase.toNat + s.bsLen.toNat / 8 ∧ s.mem.read a = none := by
  unfold State.writeBits at h
  split at h
  · cases h
  · rename_i h0
    split at h
    · rename_i x hx
      cases h
      unfold State.partialByte at hx
      split at hx
      · cases hx
      · rename_i hm
        split at hx
        · cases hx
        · rename_i hr
          cases hx
          exact ⟨fun hb => h0 (by simp [hb]), hm, rfl, hr⟩
    · cases h

/-- Everything a successful SegPack does: the checks of R209 passed, and the segment was written. -/
theorem segPack_ok {mode : Mode} {s u : State} (h : segPack mode s = .ok u) :
    ¬s.versionIllegal ∧ ¬s.outside s.argA s.argB ∧
    ∃ src body t,
      s.mem.readBytes s.argA s.argB = .ok src ∧ payload mode src = some body ∧
      charCount mode s.argB < 2 ^ lengthWidth mode s.v ∧
      ¬s.streamOutside (segmentBits mode s.v (charCount mode s.argB) body).length ∧
      s.writeBits (segmentBits mode s.v (charCount mode s.argB) body) = .ok t ∧
      u = { t with
        res0 := result (segmentBits mode s.v (charCount mode s.argB) body).length
        res1 := result (charCount mode s.argB) } := by
  unfold segPack at h
  split at h
  · cases h
  rename_i hv
  split at h
  · cases h
  rename_i ha
  split at h
  · cases h
  rename_i src hsrc
  split at h
  · cases h
  rename_i body hbody
  simp only at h
  split at h
  · cases h
  rename_i hw
  split at h
  · cases h
  rename_i ho
  split at h
  · cases h
  rename_i t ht
  cases h
  exact ⟨hv, ha, src, body, t, hsrc, hbody, by omega, ho, ht, rfl⟩

/-- A model fault of SegPack is an undefined byte: of the source, or the partial byte of the stream (44_packer.md R209). -/
theorem segPack_fault {mode : Mode} {s : State} {f : Fault} (h : segPack mode s = .fault f) :
    ∃ a, f = .uninitRead a ∧
      (s.mem.readBytes s.argA s.argB = .error a ∨ ∃ bs, ¬s.streamOutside bs.length ∧ s.writeBits bs = .error a) := by
  unfold segPack at h
  split at h
  · cases h
  split at h
  · cases h
  split at h
  · rename_i a hx
    cases h
    exact ⟨a, rfl, .inl hx⟩
  split at h
  · cases h
  rename_i body hbody
  simp only at h
  split at h
  · cases h
  split at h
  · cases h
  rename_i ho
  split at h
  · rename_i a hx
    cases h
    exact ⟨a, rfl, .inr ⟨_, ho, hx⟩⟩
  · cases h

end Sys2Proof.Machine
end

