-- ==== Sys2Proof/Laws/PerInstr.lean ====
section
/-! SUPPORT. Statements about every command as syntax, one lemma per constructor (LAWS.json).

SelectsOwnRow: the word a command is written as selects its own row of the opcode table, so every bit outside its format's
fields is as the row fixes it (30_encoding.md R93, R94). -/

namespace Sys2Proof.Laws.SelectsOwnRow

open Sys2Proof

/-- The command's word selects a row of its mnemonic. -/
def Statement (i : Instr) : Prop :=
  ∃ r ∈ opcodeTable, r.mnemonic = i.mnemonic ∧ r.selects (encode i) = true

theorem nop : Statement .nop :=
  ⟨rowOf .nop, by decide, rfl, by decide⟩

theorem gfExp (a : Byte) : Statement (.gfExp a) :=
  ⟨rowOf .gfExp, by decide, rfl, selects_gfExp a⟩

theorem gfLog (a : Byte) : Statement (.gfLog a) :=
  ⟨rowOf .gfLog, by decide, rfl, selects_gfLog a⟩

theorem gfMul (a b : Byte) : Statement (.gfMul a b) :=
  ⟨rowOf .gfMul, by decide, rfl, selects_gfMul a b⟩

theorem rsGen (k : Byte) : Statement (.rsGen k) :=
  ⟨rowOf .rsGen, by decide, rfl, selects_rsGen k⟩

theorem rsDiv : Statement .rsDiv :=
  ⟨rowOf .rsDiv, by decide, rfl, by decide⟩

theorem bchFmt (e : BitVec 2) (m : BitVec 3) : Statement (.bchFmt e m) :=
  ⟨rowOf .bchFmt, by decide, rfl, selects_bchFmt e m⟩

theorem bchVer (v : BitVec 6) : Statement (.bchVer v) :=
  ⟨rowOf .bchVer, by decide, rfl, selects_bchVer v⟩

theorem bsClear : Statement .bsClear :=
  ⟨rowOf .bsClear, by decide, rfl, by decide⟩

theorem bsPut : Statement .bsPut :=
  ⟨rowOf .bsPut, by decide, rfl, by decide⟩

theorem segNum : Statement .segNum :=
  ⟨rowOf .segNum, by decide, rfl, by decide⟩

theorem segAlnum : Statement .segAlnum :=
  ⟨rowOf .segAlnum, by decide, rfl, by decide⟩

theorem segByte : Statement .segByte :=
  ⟨rowOf .segByte, by decide, rfl, by decide⟩

theorem segKanji : Statement .segKanji :=
  ⟨rowOf .segKanji, by decide, rfl, by decide⟩

theorem bsFinal : Statement .bsFinal :=
  ⟨rowOf .bsFinal, by decide, rfl, by decide⟩

theorem mxBuild (m : BitVec 3) (t : BitVec 1) : Statement (.mxBuild m t) :=
  ⟨rowOf .mxBuild, by decide, rfl, selects_mxBuild m t⟩

theorem mxScore : Statement .mxScore :=
  ⟨rowOf .mxScore, by decide, rfl, by decide⟩

theorem mxMake : Statement .mxMake :=
  ⟨rowOf .mxMake, by decide, rfl, by decide⟩

theorem mxGet : Statement .mxGet :=
  ⟨rowOf .mxGet, by decide, rfl, by decide⟩

end Sys2Proof.Laws.SelectsOwnRow
end

