-- ==== Sys2Proof/Laws/Rs.lean ====
section
/-! SUPPORT. The ROMs satisfy what R140 and R141 state of them, and the lengths of the polynomials of the RS unit. -/

namespace Sys2Proof.Machine

open Sys2Proof

/-- EXP[0] = 1, and EXP[i] is EXP[i−1] doubled, reduced by 0x11D (41_gf.md R140). -/
theorem expRom_recurrence :
    expRom 0 = 1 ∧ ∀ i : Fin 255, (expRom (i.val + 1)).toNat =
      if (2 * (expRom i.val).toNat).testBit 8 then (2 * (expRom i.val).toNat) ^^^ Config.fieldPolynomial
      else 2 * (expRom i.val).toNat := by decide +kernel

/-- EXP[255] = EXP[0] (41_gf.md R140). -/
theorem expRom_255 : expRom 255 = expRom 0 := by decide

/-- LOG[EXP[i]] = i for i from 0 to 254 (41_gf.md R141). -/
theorem logRom_expRom : ∀ i : Fin 255, logRom (expRom i.val) = i.val := by decide +kernel

/-- EXP[LOG[a]] = a for a nonzero a, and LOG[a] is below 255 (41_gf.md R141). -/
theorem expRom_logRom : ∀ a : Byte, a ≠ 0 → expRom (logRom a) = a ∧ logRom a < 255 := by decide +kernel

@[simp] theorem gfMul_zero_left (b : Byte) : gfMul 0 b = 0 := by simp [gfMul]

@[simp] theorem gfMul_zero_right (a : Byte) : gfMul a 0 = 0 := by simp [gfMul]

theorem convolve_length (p q : List Byte) (hq : q ≠ []) : (convolve p q).length = p.length + q.length - 1 := by
  have : 0 < q.length := List.length_pos_iff.mpr hq
  induction p with
  | nil => simp [convolve]
  | cons c p ih => simp [convolve, ih]; omega

theorem strip_length_le (p : List Byte) : (strip p).length ≤ p.length := by
  induction p with
  | nil => simp [strip]
  | cons c p ih => simp only [strip]; split <;> simp; omega

/-- A stripped polynomial is empty or has a nonzero first coefficient (42_rs.md R160). -/
theorem strip_head (p : List Byte) : strip p = [] ∨ ∃ c q, strip p = c :: q ∧ c ≠ 0 := by
  induction p with
  | nil => simp [strip]
  | cons c p ih =>
    simp only [strip]
    split
    · exact ih
    · exact .inr ⟨c, p, rfl, ‹_›⟩

theorem strip_of_head_ne_zero {c : Byte} (p : List Byte) (h : c ≠ 0) : strip (c :: p) = c :: p := if_neg h

/-- RS_DIV writes exactly k bytes (42_rs.md R165). -/
@[simp] theorem ecBytes_length (data : List Byte) (k : Nat) (g : List Byte) : (ecBytes data k g).length = k := by
  simp [ecBytes]

end Sys2Proof.Machine
end

