-- ==== Sys2Proof/Tests/Slice0.lean ====
section
/-! SUPPORT. Tests. Every expected value is taken from the spec's rules or from its test vectors (95_test_vectors.md), named at
each test; the words are written out from the encodings of 30_encoding.md R91 and R94. The witnesses at the end show, for each
statement with hypotheses, a concrete state that meets them. -/

namespace Sys2Proof.Tests

open Sys2Proof Sys2Proof.Machine Sys2Proof.Claims

/-- The state after the command word w is performed from s; s itself where the step answers no next state. -/
def after (s : State) (w : Nat) : State :=
  match step (s.withFetchWord 32 w) with
  | .next t => t
  | _ => s

/-- s with its first n turns taken. -/
def turnsTaken : Nat → State → State
  | 0, s => s
  | n + 1, s =>
    match step s with
    | .next t => turnsTaken n t
    | _ => s

/-- The reset state with ARG0, ARG1, ARG2 set. -/
def withArgs (a b c : Nat) : State :=
  { State.reset with arg0 := .ofNat 32 a, arg1 := .ofNat 32 b, arg2 := .ofNat 32 c }

/-- The reset state with VERSION v, BS_BASE 0x400 and the bytes src at address 0, ready for a segment command. -/
def withSource (v : Nat) (src : List Byte) : State :=
  { withArgs 0 src.length 0 with version := .ofNat 6 v, bsBase := 0x400, mem := Memory.writeBytes [] 0 src }

/-- The reset state with one host access to come. -/
def hostFirst (a : HostAccess) : State := { State.reset with schedule := [.host a] }

/-- The reset state with the word w pending and the engine's turn to come. -/
def pendingWord (w : Word) : State := { State.reset with busy := true, pending := w, schedule := [.engine] }

/-- The stream bytes from 0x400 on, as many as BS_LEN fills. -/
def streamOf (s : State) : Except Nat (List Byte) := s.mem.readBytes 0x400 (bytesFor s.bsLen.toNat)

/-! WellFormed: an assembler refuses what does not fit (30_encoding.md R98). -/

theorem test_wf_count_zero_format : (Written.mk .nop [0]).wf = false := by decide
theorem test_wf_count_missing : (Written.mk .gfMul [1]).wf = false := by decide
theorem test_wf_gfExp : (Written.mk .gfExp [256]).wf = false := by decide
theorem test_wf_gfLog : (Written.mk .gfLog [256]).wf = false := by decide
theorem test_wf_gfMul_a : (Written.mk .gfMul [256, 0]).wf = false := by decide
theorem test_wf_gfMul_b : (Written.mk .gfMul [0, 256]).wf = false := by decide
theorem test_wf_rsGen : (Written.mk .rsGen [256]).wf = false := by decide
theorem test_wf_bchFmt_e : (Written.mk .bchFmt [4, 0]).wf = false := by decide
theorem test_wf_bchFmt_m : (Written.mk .bchFmt [0, 8]).wf = false := by decide
theorem test_wf_bchVer : (Written.mk .bchVer [64]).wf = false := by decide
theorem test_wf_mxBuild_m : (Written.mk .mxBuild [8, 0]).wf = false := by decide
theorem test_wf_mxBuild_t : (Written.mk .mxBuild [0, 2]).wf = false := by decide
theorem test_wf_accepts_largest :
    (Written.mk .gfMul [255, 255]).wf = true ∧ (Written.mk .bchFmt [3, 7]).wf = true ∧
    (Written.mk .bchVer [63]).wf = true ∧ (Written.mk .mxBuild [7, 1]).wf = true ∧ (Written.mk .nop []).wf = true := by
  decide
theorem test_assemble_refuses : assemble ⟨.bchVer, [64]⟩ = none := by decide
theorem test_assemble_word : assembleWord ⟨.gfMul, [0x53, 0xCA]⟩ = some 0x00CA5312 := by decide

/-! Decode: the words of the rules' examples and of V-GF, V-RS, V-BCH, V-MX. -/

theorem test_decode_nop : decode 0x00000000 = .ok .nop := by decide
theorem test_decode_gfExp : decode 0x00001910 = .ok (.gfExp 0x19) := by decide
theorem test_decode_gfLog : decode 0x00005311 = .ok (.gfLog 0x53) := by decide
theorem test_decode_gfMul : decode 0x00CA5312 = .ok (.gfMul 0x53 0xCA) := by decide
theorem test_decode_rsGen : decode 0x00000A20 = .ok (.rsGen 10) := by decide
theorem test_decode_rsDiv : decode 0x00000021 = .ok .rsDiv := by decide
theorem test_decode_bchFmt : decode 0x00001930 = .ok (.bchFmt 0b11 1) := by decide
theorem test_decode_bchVer : decode 0x00002831 = .ok (.bchVer 40) := by decide
theorem test_decode_bsClear : decode 0x00000040 = .ok .bsClear := by decide
theorem test_decode_bsPut : decode 0x00000041 = .ok .bsPut := by decide
theorem test_decode_segNum : decode 0x00000042 = .ok .segNum := by decide
theorem test_decode_segAlnum : decode 0x00000043 = .ok .segAlnum := by decide
theorem test_decode_segByte : decode 0x00000044 = .ok .segByte := by decide
theorem test_decode_segKanji : decode 0x00000045 = .ok .segKanji := by decide
theorem test_decode_bsFinal : decode 0x00000046 = .ok .bsFinal := by decide
theorem test_decode_mxBuild : decode 0x00000A50 = .ok (.mxBuild 2 1) := by decide
theorem test_decode_mxScore : decode 0x00000051 = .ok .mxScore := by decide
theorem test_decode_mxMake : decode 0x00000052 = .ok .mxMake := by decide
theorem test_decode_mxGet : decode 0x00000053 = .ok .mxGet := by decide

/-- V-GF-4, V-BCH-1, V-BCH-2, V-MX-7, V-ER-1: reserved bits. -/
theorem test_decode_reserved :
    decode 0x00011010 = .error (.reservedBitSet 0x10) ∧ decode 0x01000012 = .error (.reservedBitSet 0x12) ∧
    decode 0x00002030 = .error (.reservedBitSet 0x30) ∧ decode 0x00004031 = .error (.reservedBitSet 0x31) ∧
    decode 0x00001050 = .error (.reservedBitSet 0x50) ∧ decode 0x00000140 = .error (.reservedBitSet 0x40) := by
  decide

/-- V-ER-1: unassigned opcodes. -/
theorem test_decode_unassigned :
    decode 0x00000001 = .error (.unassignedOpcode 0x01) ∧ decode 0xFFFFFFFF = .error (.unassignedOpcode 0xFF) := by
  decide

/-- A table word of 8 bits, its upper bits 0. -/
theorem test_decodeTableWord : decodeTableWord 8 0x42 = some .segNum ∧ decodeTableWord 32 0x13 = none := by decide

/-! Control, STATUS and the host's accesses. -/

/-- 40_control.md R122: NOP after a failed GF_LOG clears ERR. -/
theorem test_nop_clears_err :
    (after State.reset 0x00000011).status = 0x00110502 ∧ (after (after State.reset 0x11) 0).status = 0 := by decide

/-- V-GF-4 and V-ER-1: ILLEGAL_COMMAND. -/
theorem test_illegal_status :
    (after State.reset 0x00011010).status = 0x00100602 ∧ (after State.reset 0xFFFFFFFF).status = 0x00FF0602 := by decide

/-- V-ER-2: WR CMD, then WR ARG0 with BUSY = 1. -/
theorem test_hazard :
    (turnsTaken 2 { State.reset with
      schedule := [.host (.write 0x000 32 0), .host (.write 0x008 32 1)] }).fault = some (.hostHazard 0x008) := by decide

/-- V-ER-2: the three bad accesses and the read of an undefined byte. -/
theorem test_bad_accesses :
    (turnsTaken 1 (hostFirst (.read 0x004 16))).fault = some (.hostBadAccess 0x004 16) ∧
    (turnsTaken 1 (hostFirst (.read 0x10000 32))).fault = some (.hostBadAccess 0x10000 32) ∧
    (turnsTaken 1 (hostFirst (.read 0x03C 32))).fault = some (.hostBadAccess 0x03C 32) ∧
    (turnsTaken 1 (hostFirst (.read 0x10200 8))).fault = some (.uninitRead 0x200) := by decide

/-- 30_encoding.md R99: GF_MUL by its expansion, with one poll before the engine's turn; the last poll reads STATUS. -/
theorem test_host_command :
    let s := turnsTaken 4 { State.reset.runHost [.command (.gfMul 0x53 0xCA) []] with
      schedule := [.program, .program, .engine, .program] }
    s.res0 = 0x8F ∧ s.lastRead = some 0x00120000 ∧ s.program = [] ∧ s.schedule = [] := by decide

/-- 95_test_vectors.md P2: SEG_NUM 0x000, 8 is WR ARG0, WR ARG1, WR CMD, WAIT. -/
theorem test_host_expansion :
    (HostOp.command .segNum [0, 8]).steps =
      [.access (.write 0x008 32 0), .access (.write 0x00C 32 8), .access (.write 0x000 32 0x42), .wait] := by decide

/-- WRB and RDB go through the window one byte at a time. -/
theorem test_host_bytes :
    (turnsTaken 3 (State.reset.runHost [.wrb 0x10 [0xAB, 0xCD], .rdb 0x11 1])).lastRead = some 0xCD := by decide

/-- 30_encoding.md R99: CHECK after GF_LOG 0 ends the program with DOMAIN_ERROR, so the NOP after it is not issued. -/
theorem test_host_check_ends :
    let s := turnsTaken 9 (State.reset.runHost [.command (.gfLog 0) [], .check, .command .nop []])
    s.program = [] ∧ s.programError = some 5 ∧ s.status = 0x00110502 := by decide

/-- The same program with GF_LOG 1 goes on to the NOP. -/
theorem test_host_check_passes :
    let s := turnsTaken 9 (State.reset.runHost [.command (.gfLog 1) [], .check, .command .nop []])
    s.program = [] ∧ s.programError = none ∧ s.cmd = 0 ∧ s.status = 0 := by decide

/-! GF(256): V-GF-1, V-GF-2, V-GF-3. -/

theorem test_gfExp_reduces : (after State.reset 0x00000810).res0 = 0x1D := by decide
theorem test_gfExp_wraps : (after State.reset 0x0000FF10).res0 = 0x01 := by decide
theorem test_gfLog : (after State.reset 0x0000FF11).res0 = 0xAF := by decide
theorem test_gfLog_of_one : (after State.reset 0x00000111).res0 = 0 := by decide
theorem test_gfMul_zero : (after State.reset 0x00370012).res0 = 0 := by decide
theorem test_gfMul_log_sum_wraps : (after State.reset 0x00028E12).res0 = 0x01 := by decide

/-! Reed–Solomon: V-RS-2, V-RS-3, V-RS-4. -/

theorem test_rsGen :
    (after State.reset 0x00000720).gen.take 9 = [0x01, 0x7F, 0x7A, 0x9A, 0xA4, 0x0B, 0x44, 0x75, 0x00] := by decide
theorem test_rsGen_too_long : (after State.reset 0x00001F20).status = 0x00200302 := by decide

/-- V-RS-4: in place, the EC bytes are computed from the data as it was. -/
theorem test_rsDiv_in_place :
    (after (after { withArgs 0x100 1 0x100 with mem := [(0x100, 1)] } 0x00000720) 0x21).mem.readBytes 0x100 7 =
      .ok [0x7F, 0x7A, 0x9A, 0xA4, 0x0B, 0x44, 0x75] := by decide
theorem test_rsDiv_uninit :
    (after (after (withArgs 0x3000 1 0) 0x00000720) 0x21).fault = some (.uninitRead 0x3000) ∧
    (after (after (withArgs 0x3000 1 0) 0x00000720) 0x21).busy = true := by decide

/-! BCH: V-BCH-1, V-BCH-2. -/

theorem test_bchFmt : (after State.reset 0x00001930).res0 = 0x3068 := by decide
theorem test_bchFmt_mask_only : (after State.reset 0x00000030).res0 = 0x5412 := by decide
theorem test_bchVer : (after State.reset 0x00000731).res0 = 0x07C94 := by decide
theorem test_bchVer_largest : (after State.reset 0x00003F31).res0 = 0x3FB85 := by decide

/-! The packer: V-PK-1 to V-PK-9. -/

theorem test_bsClear : (after { State.reset with bsLen := 48, bsBase := 5 } 0x40).bsLen = 0 := by decide

/-- V-PK-9: 32 ones after four bits. -/
theorem test_bsPut :
    let s := after { withArgs 0xFFFFFFFF 32 0 with bsBase := 0x400, bsLen := 4, mem := [(0x400, 0xB0)] } 0x41
    streamOf s = .ok [0xBF, 0xFF, 0xFF, 0xFF, 0xF0] ∧ s.res0 = 36 := by decide
theorem test_bsPut_too_many : (after (withArgs 1 33 0) 0x41).status = 0x00410302 := by decide

/-- V-PK-2: "0123" with the 12-bit count of version 10. -/
theorem test_segNum :
    let s := after (withSource 10 [0x30, 0x31, 0x32, 0x33]) 0x42
    streamOf s = .ok [0x10, 0x04, 0x03, 0x0C] ∧ s.res0 = 30 ∧ s.res1 = 4 := by decide
theorem test_segNum_unsupported : (after (withSource 1 [0x31, 0x32, 0x61]) 0x42).status = 0x00420102 := by decide

/-- V-PK-3: "AC-42". -/
theorem test_segAlnum :
    let s := after (withSource 1 [0x41, 0x43, 0x2D, 0x34, 0x32]) 0x43
    streamOf s = .ok [0x20, 0x29, 0xCE, 0xE7, 0x21, 0x00] ∧ s.res0 = 41 ∧ s.res1 = 5 := by decide
/-- V-PK-4: "::". -/
theorem test_segAlnum_last_code :
    streamOf (after (withSource 1 [0x3A, 0x3A]) 0x43) = .ok [0x20, 0x17, 0xE8] := by decide

/-- V-PK-6: "hi" with the 16-bit count of version 10. -/
theorem test_segByte :
    streamOf (after (withSource 10 [0x68, 0x69]) 0x44) = .ok [0x40, 0x00, 0x26, 0x86, 0x90] := by decide
theorem test_segByte_empty : streamOf (after (withSource 1 []) 0x44) = .ok [0x40, 0x00] := by decide

/-- V-PK-5. -/
theorem test_segKanji :
    let s := after (withSource 1 [0x93, 0x5F, 0xE4, 0xAA]) 0x45
    streamOf s = .ok [0x80, 0x26, 0xCF, 0xEA, 0xA8] ∧ s.res0 = 38 ∧ s.res1 = 2 := by decide
/-- V-PK-6: past the first range, between the ranges, a low trail byte, an odd length. -/
theorem test_segKanji_unsupported :
    kanjiPayload [0x9F, 0xFD] = none ∧ kanjiPayload [0xA0, 0x40] = none ∧ kanjiPayload [0x81, 0x30] = none ∧
    kanjiPayload [0x81] = none := by decide

/-- V-PK-8: 13 one-bits and C = 2, no terminator. -/
theorem test_bsFinal_no_terminator :
    let s := after { withArgs 2 0 0 with bsBase := 0x400, bsLen := 13, mem := [(0x400, 0xFF), (0x401, 0xF8)] } 0x46
    streamOf s = .ok [0xFF, 0xF8] ∧ s.res0 = 0 ∧ s.res1 = 0 ∧ s.bsLen = 16 := by decide
/-- V-PK-7: 41 bits and C = 16. -/
theorem test_bsFinal_pads :
    let s := after { withArgs 16 0 0 with bsBase := 0x400, bsLen := 41, mem := Memory.writeBytes [] 0x400 [0x10, 0x20, 0x0C, 0x56, 0x61, 0x80] } 0x46
    streamOf s = .ok [0x10, 0x20, 0x0C, 0x56, 0x61, 0x80, 0xEC, 0x11, 0xEC, 0x11, 0xEC, 0x11, 0xEC, 0x11, 0xEC, 0x11] ∧
    s.res0 = 10 ∧ s.res1 = 4 ∧ s.bsLen = 128 := by decide

/-! The matrix and mask units: V-MX-6, V-MX-7, V-MK-3, V-MK-4. -/

/-- V-MX-6. -/
theorem test_dataModules : dataModules 1 = 208 := by decide +kernel
/-- V-MX-7: 27 codewords do not fit version 1. -/
theorem test_mxBuild_capacity :
    (after { withArgs 0 27 0 with version := 1, mem := Memory.writeBytes [] 0 (List.replicate 27 0) } 0x50).status =
      0x00500202 := by decide +kernel
/-- 95_test_vectors.md L1-3 with n = 0. -/
theorem test_mxBuild_size :
    let s := after { State.reset with version := 1 } 0x00000950
    s.res0 = 21 ∧ s.res1 = 208 ∧ s.modCount = 21 ∧ s.mask = 1 ∧ s.mtxState = .test := by decide +kernel

/-- A matrix of version 1 with every cell light. -/
def allLight : State :=
  { State.reset with mtx := Vector.replicate 177 (Vector.replicate 177 MtxCell.light), modCount := 21, mtxState := .final }

/-- V-MX-7: a coordinate out of range is OUT_OF_RANGE, and without a matrix NOT_READY comes first. -/
theorem test_mxGet_errors :
    (after { allLight with arg0 := 21 } 0x53).status = 0x00530402 ∧ (after (withArgs 500 0 0) 0x53).status = 0x00530802 := by
  decide
theorem test_mxGet :
    (after { allLight with arg0 := 13, arg1 := 8, mtx := allLight.mtx.put 13 8 true } 0x53).res0 = 1 ∧
    (after { allLight with arg0 := 8, arg1 := 13, mtx := allLight.mtx.put 13 8 true } 0x53).res0 = 0 := by decide

/-- By hand from R280 to R284: 42 lines of 19, 400 blocks of 3, no window, |0 − 4410| div 441 = 10. -/
theorem test_mxScore_light :
    (after allLight 0x51).res0 = 2098 ∧ (after allLight 0x51).res1 = 0 := by decide +kernel
/-- V-MK-4. -/
theorem test_mxScore_not_ready : (after State.reset 0x51).status = 0x00510802 := by decide

/-- V-MK-3: runs, windows and the balance rule. -/
theorem test_penalty_rules :
    runScore 4 = 0 ∧ runScore 5 = 3 ∧ runScore 21 = 19 ∧ windowCount finderWindow = 1 ∧
    blockCount (List.replicate 3 (List.replicate 3 true)) = 4 ∧
    penD 21 220 = 0 ∧ penD 21 221 = 0 ∧ penD 21 243 = 10 ∧ penD 21 198 = 10 ∧ penD 21 199 = 0 ∧ penD 21 242 = 0 ∧
    penD 20 180 = 10 := by decide

/-- V-MK-1: the penalties of the eight masks choose mask 2; equal penalties choose the lowest mask. -/
theorem test_mxMake_choice :
    leastIndex [1353, 1370, 1160, 1168, 1214, 1283, 1193, 1173] = 2 ∧ leastIndex [3, 1, 2, 1] = 1 := by decide
/-- 70_reset_and_hazards.md R330: VERSION = 0 after reset is not legal. -/
theorem test_mxMake_version : (after State.reset 0x52).status = 0x00520302 := by decide

/-! Witnesses: for each statement with hypotheses, a concrete state and operands that meet them all. -/

/-- A state with the generator of length 1, the data byte 0x55 at 0, the EC byte to go to 1. -/
def divReady : State :=
  { withArgs 0 1 1 with
    gen := [1, 1] ++ List.replicate 29 0
    genLen := 1
    mem := [(0, 0x55)] }

theorem getD_zeros (n j : Nat) : (List.replicate n (0 : Byte)).getD j 0 = 0 := by
  rw [List.getD_eq_getElem?_getD, List.getElem?_replicate]
  split <;> rfl

theorem divReady_generatorSound : divReady.GeneratorSound where
  slots := by decide
  bounded := by decide
  holdsGen := by decide
  zeroBeyond := by
    intro j hj
    match j, hj with
    | j + 2, _ => exact getD_zeros 29 j

/-- NoWordSelectsTwoRows: the word of NOP and its row, twice. -/
theorem witness_NoWordSelectsTwoRows :
    (⟨.nop, 0, 0xFFFFFFFF⟩ : OpcodeRow) ∈ opcodeTable ∧ (0 : Word) &&& 0xFFFFFFFF = 0 := by decide

/-- ReservedBitIsIllegal: GF_EXP with bit 16 set. -/
theorem witness_ReservedBitIsIllegal :
    let s := pendingWord 0x00011010
    let r : OpcodeRow := ⟨.gfExp, 0x10, 0xFFFF00FF⟩
    r ∈ opcodeTable ∧ s.fault = none ∧ s.busy = true ∧ s.schedule = .engine :: [] ∧
    s.pending.extractLsb' 0 8 = r.pattern.extractLsb' 0 8 ∧ s.pending &&& r.mask ≠ r.pattern := by decide

/-- UnassignedOpcodeIsIllegal: both ends of every range. -/
theorem witness_UnassignedOpcodeIsIllegal :
    ∀ opc ∈ [0x01, 0x0F, 0x13, 0x1F, 0x22, 0x2F, 0x32, 0x3F, 0x47, 0x4F, 0x54, 0xFF],
      let s := pendingWord (.ofNat 32 opc)
      s.fault = none ∧ s.busy = true ∧ s.schedule = .engine :: [] ∧ (s.pending.extractLsb' 0 8).toNat = opc ∧
      ((0x01 ≤ opc ∧ opc ≤ 0x0F) ∨ (0x13 ≤ opc ∧ opc ≤ 0x1F) ∨ (0x22 ≤ opc ∧ opc ≤ 0x2F) ∨
        (0x32 ≤ opc ∧ opc ≤ 0x3F) ∨ (0x47 ≤ opc ∧ opc ≤ 0x4F) ∨ (0x54 ≤ opc ∧ opc ≤ 0xFF)) := by decide

/-- StepPerformsPendingCommand: busy with the engine first, busy with an empty schedule, and idle both ways. -/
theorem witness_StepPerformsPendingCommand :
    decode (pendingWord 0).pending = .ok .nop ∧ (pendingWord 0).fault = none ∧ (pendingWord 0).busy = true ∧
    (pendingWord 0).schedule = .engine :: [] ∧ ({ pendingWord 0 with schedule := [] } : State).busy = true ∧
    decode State.reset.pending = .ok .nop ∧ State.reset.fault = none ∧ State.reset.busy = false ∧
    State.reset.schedule = [] ∧ State.reset.program = [] := by decide

/-- CommandIssue. -/
theorem witness_CommandIssue :
    let s := hostFirst (.write 0x000 32 0x42)
    s.fault = none ∧ s.busy = false ∧ s.schedule = .host (.write 0x000 32 0x42) :: [] := by decide

/-- BusyHazard: a STATUS read, and each kind of other access. -/
theorem witness_BusyHazard :
    ∀ a ∈ ([.read 0x004 32, .read 0x004 8, .read 0x000 32, .write 0x000 32 0, .write 0x10000 8 0] : List HostAccess),
      let s : State := { pendingWord 0 with schedule := [.host a] }
      s.fault = none ∧ s.busy = true ∧ s.schedule = .host a :: [] := by decide

/-- RegisterReads: the first and the last register of each kind. -/
theorem witness_RegisterReads :
    (∀ offset ∈ [0x000, 0x038, 0x040, 0x05C, 0x080, 0x0F8],
      let s := hostFirst (.read offset 32)
      s.fault = none ∧ s.busy = false ∧ s.params.Legal ∧ s.schedule = .host (.read offset 32) :: []) ∧
    (0x040 = 0x040 + 4 * (0 : Fin 8).val ∧ 0x05C = 0x040 + 4 * (7 : Fin 8).val) ∧
    (0 ≤ State.reset.params.ecMax ∧ 0x080 = 0x080 + 4 * 0) ∧ (30 ≤ State.reset.params.ecMax ∧ 0x0F8 = 0x080 + 4 * 30) := by
  decide

/-- RegisterWrites: each read/write register, and the ends of the read-only ranges. -/
theorem witness_RegisterWrites :
    ∀ offset ∈ [0x008, 0x00C, 0x010, 0x01C, 0x020, 0x024, 0x004, 0x038, 0x040, 0x05C, 0x080, 0x0F8],
      let s := hostFirst (.write offset 32 0xFFFFFFFF)
      s.fault = none ∧ s.busy = false ∧ s.params.Legal ∧ s.schedule = .host (.write offset 32 0xFFFFFFFF) :: [] := by decide

/-- WindowAccess: the first and the last byte of M, written, read defined and undefined, and of another width. -/
theorem witness_WindowAccess :
    ∀ a ∈ [0, 16383],
      let s : State := { hostFirst (.read (0x10000 + a) 8) with mem := [(a, 7)] }
      s.fault = none ∧ s.busy = false ∧ a < s.params.memSize ∧ s.schedule = .host (.read (0x10000 + a) 8) :: [] ∧
      s.mem.read a = some 7 ∧ State.reset.mem.read a = none ∧
      (hostFirst (.write (0x10000 + a) 8 7)).schedule = .host (.write (0x10000 + a) 8 7) :: [] ∧
      (hostFirst (.read (0x10000 + a) 16)).schedule = .host (.read (0x10000 + a) 16) :: [] := by decide

/-- BadAccessFaults: a value at the ends of each range. -/
theorem witness_BadAccessFaults :
    ∀ a ∈ ([.read 0x03C 32, .read 0x060 32, .write 0x07C 32 0, .read 0x0FC 32, .read 0xFFFC 32, .read 0x004 16,
        .read 0x006 32, .write 0x10000 32 0, .read 0x14000 8] : List HostAccess),
      let s := hostFirst a
      s.fault = none ∧ s.busy = false ∧ s.schedule = .host a :: [] ∧
      (a.offset = 0x03C ∨ (0x060 ≤ a.offset ∧ a.offset < 0x080) ∨
        (0x080 + 4 * (s.params.ecMax + 1) ≤ a.offset ∧ a.offset < 0x10000) ∨
        (a.offset < 0x10000 ∧ (a.width ≠ 32 ∨ a.offset % 4 ≠ 0)) ∨
        (0x10000 ≤ a.offset ∧ a.width ≠ 8) ∨ 0x10000 + s.params.memSize ≤ a.offset) := by decide

/-- FaultIsNeverCleared: the reset input steps with a fault recorded; without it the step answers the fault. -/
theorem witness_FaultIsNeverCleared :
    let s : State := { State.reset with fault := some (.uninitRead 5), schedule := [.reset] }
    (turnsTaken 1 s).schedule = [] ∧ (turnsTaken 1 s).fault = some (.uninitRead 5) ∧
    (∀ rest, ({ s with schedule := [] } : State).schedule ≠ .reset :: rest) := by
  refine ⟨by decide, by decide, ?_⟩
  intro rest h
  cases h

/-- ResetInput. -/
theorem witness_ResetInput : ({ pendingWord 0 with schedule := [.reset] } : State).schedule = .reset :: [] := by decide

/-- ErrorChangesOnlyStatus: GF_LOG 0, and an illegal word. -/
theorem witness_ErrorChangesOnlyStatus :
    ∀ w ∈ ([0x11, 0x01] : List Word),
      (pendingWord w).fault = none ∧ (pendingWord w).busy = true ∧ (pendingWord w).schedule = .engine :: [] ∧
      step (pendingWord w) = .next (turnsTaken 1 (pendingWord w)) ∧ (turnsTaken 1 (pendingWord w)).fault = none ∧
      (turnsTaken 1 (pendingWord w)).err ≠ .none := by
  intro w hw
  simp only [List.mem_cons, List.not_mem_nil, or_false] at hw
  rcases hw with rfl | rfl
  · exact ⟨rfl, rfl, rfl, rfl, by decide, by decide⟩
  · exact ⟨rfl, rfl, rfl, rfl, by decide, by decide⟩

/-- EveryCommandEnds. -/
theorem witness_EveryCommandEnds : State.reset.fault = none := rfl

/-- CommandFaultIsUninitRead and UndefinedSourceByteFaults: RS_DIV, a segment and a build on undefined bytes. -/
theorem witness_UndefinedSourceByteFaults :
    let s : State := { divReady with mem := [], version := 1 }
    s.fault = none ∧ readsItsSource .rsDiv s ∧ readsItsSource .segNum s ∧ readsItsSource .mxMake s ∧
    s.arg0.toNat + s.arg1.toNat ≤ s.params.memSize ∧ 0 < s.arg1.toNat ∧
    (∀ j, j < 0 → s.mem.read (s.arg0.toNat + j) ≠ none) ∧ s.mem.read (s.arg0.toNat + 0) = none ∧
    exec .rsDiv s = .next { s with fault := some (.uninitRead 0) } := by
  refine ⟨rfl, ⟨by decide, by decide⟩, ⟨by decide, by decide⟩, ⟨by decide, by decide⟩, by decide, by decide, ?_, by decide, rfl⟩
  intro j hj
  omega

/-- CommandsKeepHostRegisters and OnlyOwnersWriteStores, whose one hypothesis is a next state. -/
theorem witness_CommandsKeepHostRegisters : exec .bsClear State.reset = .next (State.reset.complete .none) := rfl

/-- OnlyBuildsWriteMatrix: another command, and a build that fails. -/
theorem witness_OnlyBuildsWriteMatrix :
    exec .nop State.reset = .next (State.reset.complete .none) ∧ buildsMatrix .nop = false ∧
    exec .mxMake State.reset = .next (State.reset.complete .invalidParameter) ∧
    (State.reset.complete .invalidParameter).err ≠ .none ∧ State.reset.fault = none := by
  exact ⟨rfl, rfl, rfl, by decide, rfl⟩

/-- GfLogResult: two nonzero elements (the clause for 0 has no other hypothesis). -/
theorem witness_GfLogResult :
    alphaPow 0 = 1 ∧ (1 : Byte) ≠ 0 ∧ alphaPow 8 = 0x1D ∧ (0x1D : Byte) ≠ 0 := by decide

/-- RsGenResult: k = 0, EC_MAX + 1, 1 and EC_MAX. -/
theorem witness_RsGenResult :
    State.reset.params.ecMax < (31 : Byte).toNat ∧
    ((1 : Byte) ≠ 0 ∧ (1 : Byte).toNat ≤ State.reset.params.ecMax) ∧
    ((30 : Byte) ≠ 0 ∧ (30 : Byte).toNat ≤ State.reset.params.ecMax) := by decide

/-- GeneratorIsMonicWithItsRoots and RemainderMakesCodeword: the ends of the range of k. -/
theorem witness_generator_range : (1 ≤ 1 ∧ 1 ≤ 254) ∧ (1 ≤ 254 ∧ 254 ≤ 254) := by decide

/-- RsDivResult: one data byte, and with no data. -/
theorem witness_RsDivResult :
    divReady.GeneratorSound ∧ divReady.genLen ≠ 0 ∧ [(0x55 : Byte)].length = divReady.arg1.toNat ∧
    Holds divReady.mem divReady.arg0.toNat [0x55] ∧
    divReady.arg0.toNat + divReady.arg1.toNat ≤ divReady.params.memSize ∧
    divReady.arg2.toNat + divReady.genLen.toNat ≤ divReady.params.memSize := by
  refine ⟨divReady_generatorSound, by decide, by decide, ?_, by decide, by decide⟩
  unfold Holds
  decide

/-- RsDivErrors: each of the two regions past the end of M by one byte (V-RS-4). -/
theorem witness_RsDivErrors :
    State.reset.genLen = 0 ∧ divReady.genLen ≠ 0 ∧
    (let s : State := { divReady with arg0 := 16383, arg1 := 2 }
     s.params.memSize < s.arg0.toNat + s.arg1.toNat) ∧
    (let s : State := { divReady with arg2 := 16384 }
     s.params.memSize < s.arg2.toNat + s.genLen.toNat) := by decide

/-- BsPutResult: 32 bits up to the last bit of M, and no bits. -/
theorem witness_BsPutResult :
    let s : State := { withArgs 1 32 0 with bsBase := 16379, bsLen := 4, mem := [(16379, 0xF0)] }
    (s.arg1.toNat ≤ 32 ∧ s.bsBase.toNat + bytesFor (s.bsLen.toNat + s.arg1.toNat) ≤ s.params.memSize ∧
      (s.arg1 = 0 ∨ PartialByteDefined s)) ∧
    ({ s with arg1 := 0 } : State).arg1 = 0 := by
  refine ⟨⟨by decide, by decide, Or.inr (Or.inr ?_)⟩, rfl⟩
  decide

/-- A segment source of each mode. -/
def sourceOf : Mode → List Byte
  | .numeric => [0x37]
  | .alphanumeric => [0x41]
  | .byte => [0x68]
  | .kanji => [0x81, 0x40]

/-- SegmentResult: one character of each mode. -/
theorem witness_SegmentResult (mode : Mode) :
    let s := withSource 1 (sourceOf mode)
    ∃ body, 1 ≤ s.version.toNat ∧ s.version.toNat ≤ 40 ∧ s.arg0.toNat + s.arg1.toNat ≤ s.params.memSize ∧
      (sourceOf mode).length = s.arg1.toNat ∧ Holds s.mem s.arg0.toNat (sourceOf mode) ∧
      payload mode (sourceOf mode) = some body ∧
      charCount mode s.arg1.toNat < 2 ^ lengthWidth mode s.version.toNat ∧
      s.bsBase.toNat + bytesFor (s.bsLen.toNat + (4 + lengthWidth mode s.version.toNat + body.length)) ≤
        s.params.memSize ∧
      PartialByteDefined s := by
  refine ⟨(payload mode (sourceOf mode)).getD [], ?_⟩
  cases mode <;>
    refine ⟨by decide, by decide, by decide, by decide, ?_, by decide, by decide, by decide,
      Or.inl (by decide)⟩ <;>
    · unfold Holds
      decide

/-- SegmentErrorsInOrder: a version below and above the range, a source past M, an unsupported source, 256 bytes at version
9, and an output past M. -/
theorem witness_SegmentErrorsInOrder :
    State.reset.version.toNat < 1 ∧ 40 < (withSource 41 []).version.toNat ∧
    (let s : State := { withArgs 16384 1 0 with version := 40 }
     1 ≤ s.version.toNat ∧ s.version.toNat ≤ 40 ∧ s.params.memSize < s.arg0.toNat + s.arg1.toNat) ∧
    payload .numeric [0x61] = none ∧ payload .kanji [0x81] = none ∧
    2 ^ lengthWidth .byte 9 ≤ charCount .byte 256 ∧
    (let s : State := { withArgs 0 0 0 with version := 1, bsBase := 16383 }
     payload .byte [] = some [] ∧ charCount .byte s.arg1.toNat < 2 ^ lengthWidth .byte s.version.toNat ∧
     s.params.memSize <
      s.bsBase.toNat + bytesFor (s.bsLen.toNat + (4 + lengthWidth .byte s.version.toNat + 0))) := by decide

/-- HostProgramSteps: a program turn with each kind of step first, busy or not, and the empty schedule. -/
theorem witness_HostProgramSteps :
    (∀ x ∈ ([.access (.read 0x000 32), .wait, .check] : List HostStep),
      let s : State := { State.reset with program := [x], schedule := [.program] }
      s.fault = none ∧ s.schedule = .program :: [] ∧ s.program = x :: []) ∧
    (let s : State := { pendingWord 0 with program := [.wait], schedule := [.program] }
     s.fault = none ∧ s.busy = true ∧ s.schedule = .program :: [] ∧ s.program = .wait :: []) ∧
    State.reset.fault = none ∧ State.reset.schedule = [] ∧ State.reset.busy = false ∧ State.reset.program = [] := by decide

/-- PayloadsAndHeaderFields: a supported source of each mode, and an unsupported one where there is one. -/
theorem witness_PayloadsAndHeaderFields_supported (mode : Mode) : Supported mode (sourceOf mode) := by
  cases mode <;> simp only [Supported] <;> decide

theorem witness_PayloadsAndHeaderFields_unsupported :
    ¬Supported .numeric [0x61] ∧ ¬Supported .alphanumeric [0x61] ∧ ¬Supported .kanji [0x81] ∧
    ¬Supported .kanji [0x9F, 0xFD] := by
  simp only [Supported]
  decide

/-- V-PK-1, V-PK-3, V-PK-5: the payloads of "01234567", "AC-42" and 93 5F E4 AA as the statement writes them. -/
theorem test_payloadBits :
    payloadBits .numeric [0x30, 0x31, 0x32, 0x33, 0x34, 0x35, 0x36, 0x37] =
      msbFirst 12 10 ++ msbFirst 345 10 ++ msbFirst 67 7 ∧
    payloadBits .alphanumeric [0x41, 0x43, 0x2D, 0x34, 0x32] = msbFirst 462 11 ++ msbFirst 1849 11 ++ msbFirst 2 6 ∧
    payloadBits .kanji [0x93, 0x5F, 0xE4, 0xAA] = msbFirst 0x0D9F 13 ++ msbFirst 0x1AAA 13 := by decide

/-- V-MK-3 and R280, as the statement's penalty has it: runs of 7, 4 and 5, the window, a 3 × 3 block, the balance. -/
theorem test_penalty_of_lines :
    runsOfLine 7 (fun _ => false) = 5 ∧ runsOfLine 4 (fun _ => true) = 0 ∧ runsOfLine 5 (fun _ => true) = 3 ∧
    windowsOfLine 7 (fun i => finderWindow.getD i false) = 1 ∧ blocksOf 3 (fun _ _ => true) = 4 ∧
    balanceOf 220 441 = 0 ∧ balanceOf 243 441 = 10 ∧ balanceOf 198 441 = 10 ∧ balanceOf 0 441 = 100 := by decide

/-- PayloadsAndHeaderFields: a source with a payload in each mode. -/
theorem witness_PayloadsAndHeaderFields (mode : Mode) : ∃ body, payload mode (sourceOf mode) = some body := by
  refine ⟨(payload mode (sourceOf mode)).getD [], ?_⟩
  cases mode <;> decide

/-- KanjiValuesFitAndDiffer: the ends of both ranges (V-PK-6). -/
theorem witness_KanjiValues :
    kanjiValue 0x8140 = some 0 ∧ kanjiValue 0x9FFC = some 0x173C ∧ kanjiValue 0xE040 = some 0x1740 ∧
    kanjiValue 0xEBBF = some 0x1FFF := by decide

/-- BsFinalResult: a stream of 13 bits with capacity 2, and an empty one at the end of M. -/
theorem witness_BsFinalResult :
    (let s : State := { withArgs 2 0 0 with bsLen := 13, mem := [(0, 0xFF), (1, 0xF8)] }
     s.bsLen.toNat ≤ 8 * s.arg0.toNat ∧ s.bsBase.toNat + s.arg0.toNat ≤ s.params.memSize ∧ PartialByteDefined s) ∧
    (let s : State := { withArgs 0 0 0 with bsBase := 16384 }
     s.bsLen.toNat ≤ 8 * s.arg0.toNat ∧ s.bsBase.toNat + s.arg0.toNat ≤ s.params.memSize ∧ PartialByteDefined s) := by
  refine ⟨⟨by decide, by decide, Or.inr ?_⟩, by decide, by decide, Or.inl rfl⟩
  decide

/-- PackerErrors: 33 bits, an output past M, 17 bits with C = 2, and the last case of V-PK-8. -/
theorem witness_PackerErrors :
    32 < (withArgs 0 33 0).arg1.toNat ∧
    (let s : State := { withArgs 0 1 0 with bsBase := 16384 }
     s.arg1.toNat ≤ 32 ∧ s.params.memSize < s.bsBase.toNat + bytesFor (s.bsLen.toNat + s.arg1.toNat)) ∧
    (let s : State := { withArgs 2 0 0 with bsLen := 17 }
     8 * s.arg0.toNat < s.bsLen.toNat) ∧
    (let s : State := { withArgs 2 0 0 with bsBase := 16383 }
     s.bsLen.toNat ≤ 8 * s.arg0.toNat ∧ s.params.memSize < s.bsBase.toNat + s.arg0.toNat) := by decide

/-- UndefinedPartialByteFaults: one bit before the stream's end in an unwritten byte, for each of the three clauses. -/
theorem witness_UndefinedPartialByteFaults :
    (let s : State := { withArgs 1 1 0 with bsLen := 1 }
     s.fault = none ∧ s.bsLen.toNat % 8 ≠ 0 ∧ s.mem.read (s.bsBase.toNat + s.bsLen.toNat / 8) = none ∧
     0 < s.arg1.toNat ∧ s.arg1.toNat ≤ 32 ∧
     s.bsBase.toNat + bytesFor (s.bsLen.toNat + s.arg1.toNat) ≤ s.params.memSize ∧
     s.bsLen.toNat ≤ 8 * s.arg0.toNat ∧ s.bsBase.toNat + s.arg0.toNat ≤ s.params.memSize) ∧
    (let s : State := { withSource 1 [] with bsLen := 1 }
     s.mem.read (s.bsBase.toNat + s.bsLen.toNat / 8) = none ∧ payload .byte [] = some [] ∧
     charCount .byte s.arg1.toNat < 2 ^ lengthWidth .byte s.version.toNat ∧
     s.bsBase.toNat + bytesFor (s.bsLen.toNat + (4 + lengthWidth .byte s.version.toNat + 0)) ≤ s.params.memSize) := by
  decide

/-- 26 codeword bytes at 0, for version 1. -/
def buildReady (n : Nat) : State :=
  { withArgs 0 n 0 with version := 1, mem := Memory.writeBytes [] 0 (List.replicate n 0xA5) }

/-- MxBuildResult and MxMakeResult: 26 codewords fill version 1 exactly (V-MX-7). -/
theorem witness_MxBuildResult :
    let s := buildReady 26
    1 ≤ s.version.toNat ∧ s.version.toNat ≤ 40 ∧ s.arg0.toNat + s.arg1.toNat ≤ s.params.memSize ∧
    (List.replicate 26 (0xA5 : Byte)).length = s.arg1.toNat ∧ Holds s.mem s.arg0.toNat (List.replicate 26 0xA5) ∧
    8 * s.arg1.toNat ≤ dataModules s.version.toNat := by
  refine ⟨by decide, by decide, by decide, by decide, ?_, ?_⟩
  · unfold Holds
    decide
  · have h : (buildReady 26).version.toNat = 1 := by decide
    rw [h, test_dataModules]
    decide

/-- MxScoreAndGetResults: the last legal cell. -/
theorem witness_MxScoreAndGetResults :
    let s : State := { allLight with arg0 := 20, arg1 := 20 }
    s.mtxState ≠ .none ∧ s.arg0.toNat < s.modCount.toNat ∧ s.arg1.toNat < s.modCount.toNat := by decide

/-- MatrixErrors: no matrix, the first cell out of range, and a build with 27 codewords. -/
theorem witness_MatrixErrors :
    State.reset.mtxState = .none ∧
    (let s : State := { allLight with arg0 := 21 }
     s.mtxState ≠ .none ∧ s.modCount.toNat ≤ s.arg0.toNat) ∧
    buildsMatrix .mxMake = true ∧ buildsMatrix (.mxBuild 0 1) = true ∧ State.reset.version.toNat < 1 ∧
    (let s : State := { withArgs 16384 1 0 with version := 1 }
     s.params.memSize < s.arg0.toNat + s.arg1.toNat) ∧
    (let s := buildReady 27
     s.arg0.toNat + s.arg1.toNat ≤ s.params.memSize ∧ (List.replicate 27 (0xA5 : Byte)).length = s.arg1.toNat ∧
     Holds s.mem s.arg0.toNat (List.replicate 27 0xA5) ∧ dataModules s.version.toNat < 8 * s.arg1.toNat) := by
  refine ⟨rfl, by decide, rfl, rfl, by decide, by decide, by decide, by decide, ?_, ?_⟩
  · unfold Holds
    decide
  · have h : (buildReady 27).version.toNat = 1 := by decide
    rw [h, test_dataModules]
    decide

/-- RenderResolvesEveryCell, TestRenderDiffersOnlyInInformation, FinalRenderFunctionModules, DataBitsFollowTheTraversal,
MasksFlipDataCells and PenaltyFitsRegister: the smallest and the largest version, and a cell of each kind in version 1. -/
theorem witness_version_range :
    (1 ≤ 1 ∧ 1 ≤ 40) ∧ (1 ≤ 40 ∧ 40 ≤ 40) ∧ (21 ≤ 4 * 1 + 17 ∧ 4 * 40 + 17 ≤ 177) ∧
    (8, 0) ∈ informationCells 1 ∧ (20, 20) ∉ informationCells 1 ∧ (0, 34) ∈ informationCells 7 ∧
    0 < 21 ∧ 20 < 21 := by decide

/-- 90_conflicts.md C3: in version 7 the alignment pattern at (6, 38) is skipped whole, so (7, 36) and (36, 7) are data cells. -/
theorem test_skipped_alignment_is_data :
    ¬isFunctionCell 7 7 36 ∧ ¬isFunctionCell 7 8 36 ∧ ¬isFunctionCell 7 36 8 ∧ isFunctionCell 7 8 22 ∧
    isFunctionCell 7 0 34 ∧ isFunctionCell 1 0 0 ∧ ¬isFunctionCell 1 20 20 :=
  ⟨by decide, by decide, by decide, by decide, by decide, by decide, by decide⟩

theorem witness_cell_kinds :
    (functionGrid 1 0 0 true).get 0 0 ≠ .unset ∧ (functionGrid 1 0 0 true).get 20 20 = .unset := by decide +kernel

/-- StepKeepsMemorySound, StepKeepsGeneratorSound, StepKeepsStreamSound and StepKeepsMatrixSound: the reset state meets the
four invariants, and it steps. -/
theorem witness_invariants :
    State.reset.params.Legal ∧ State.reset.MemorySound ∧ State.reset.GeneratorSound ∧ State.reset.StreamSound ∧
    State.reset.MatrixSound ∧ step State.reset = .next State.reset := by
  refine ⟨by decide, ⟨by decide, by decide⟩, ⟨by decide, by decide, by decide, ?_⟩, ⟨by decide, ?_⟩,
    ⟨by decide, ?_, ?_⟩, rfl⟩
  · intro j _
    exact getD_zeros 31 j
  · intro p hp
    exact absurd hp (Nat.not_lt_zero p)
  · intro h
    exact absurd rfl h
  · intro h
    exact absurd rfl h

end Sys2Proof.Tests
end

section
/-! PROOFS. What every command may write (40_control.md R121), said once: the effects of a completed command, and
from them who writes the registers and the stores. -/

namespace Sys2Proof.Machine

open Sys2Proof Sys2Proof.Claims

/-- What RS_GEN k puts in a GEN store of n + 1 slots (42_rs.md R164). -/
def genStore (n k : Nat) : List Byte := (List.range (n + 1)).map fun j => if j ≤ k then (genPoly k).getD j 0 else 0

/-- The state t differs from s by no more than the effects a successful command i may have (40_control.md R121): the GEN store
and the matrix are given as the command's rule gives them, and what M, BS_LEN, PENALTY and the result registers come to hold
is left open. -/
inductive Writes : Instr → State → State → Prop where
  /-- The result registers alone (10_state.md R25), or nothing. -/
  | results (i : Instr) (s : State) (r0 r1 : Word) : Writes i s { s with res0 := r0, res1 := r1 }
  /-- RS_GEN with a legal k (42_rs.md R164). -/
  | generator (k : Byte) (s : State) (r0 : Word) (hk : k.toNat ≤ s.params.ecMax) :
      Writes (.rsGen k) s { s with gen := genStore s.params.ecMax k.toNat, genLen := k, res0 := r0 }
  /-- RS_DIV (42_rs.md R165). -/
  | remainder (s : State) (m : Memory) (r0 : Word) : Writes .rsDiv s { s with mem := m, res0 := r0 }
  /-- The packer's commands (44_packer.md R210 to R216). -/
  | stream (i : Instr) (s : State) (m : Memory) (l r0 r1 : Word) (hi : writesStreamLength i = true)
      (hm : storesToM i = false → m = s.mem) : Writes i s { s with mem := m, bsLen := l, res0 := r0, res1 := r1 }
  /-- The builds, with a legal version (45_matrix.md R254, 46_mask.md R286). -/
  | matrix (i : Instr) (s : State) (cw : List Byte) (m : BitVec 3) (test : Bool) (x : MtxState) (p : Vector Word 8)
      (r0 r1 : Word) (hi : buildsMatrix i = true) (hv : ¬s.versionIllegal) (hx : x ≠ .none)
      (hp : i ≠ .mxMake → p = s.penalty) :
      Writes i s { s.withMatrix (render s.v s.ecLevel cw m test) m x with penalty := p, res0 := r0, res1 := r1 }

/-- WriteBits changes M and BS_LEN at most (44_packer.md R201). -/
theorem State.writeBits_frame {s t : State} {bs : List Bool} (h : s.writeBits bs = .ok t) :
    t = { s with mem := t.mem, bsLen := t.bsLen } := by
  obtain ⟨-, rfl⟩ | ⟨-, -, -, rfl⟩ := State.writeBits_ok h <;> rfl

/-- A segment command that succeeds writes like a packer command (44_packer.md R209). -/
theorem segPack_writes {mode : Mode} {s t : State} {i : Instr} (hi : writesStreamLength i = true) (hm : storesToM i = true)
    (h : segPack mode s = .ok t) : Writes i s t := by
  obtain ⟨-, -, src, body, u, -, -, -, -, hu, rfl⟩ := segPack_ok h
  have hf := State.writeBits_frame hu
  rw [hf]
  exact .stream i s _ _ _ _ hi (by simp [hm])

/-- The three ends of a command, when a success of its execution stays within the command's writes (40_control.md R121). -/
theorem finish_writes {i : Instr} {s u : State} {e : Execution} (he : ∀ t, e = .ok t → Writes i s t)
    (h : finish s e = .next u) :
    (∃ t, Writes i s t ∧ u = t.complete .none) ∨ (∃ c, u = s.complete c) ∨ (∃ f, u = s.recordFault f) := by
  obtain ⟨t, ht, rfl⟩ | ⟨c, -, rfl⟩ | ⟨f, -, rfl⟩ := finish_next_iff.mp h
  · exact .inl ⟨t, he t ht, rfl⟩
  · exact .inr (.inl ⟨c, rfl⟩)
  · exact .inr (.inr ⟨f, rfl⟩)

/-- Everything a command can do (40_control.md R121): its writes and the completion, the completion with an error code alone,
or the record of a model fault alone. -/
theorem exec_cases {i : Instr} {s u : State} (h : exec i s = .next u) :
    (∃ t, Writes i s t ∧ u = t.complete .none) ∨ (∃ c, u = s.complete c) ∨ (∃ f, u = s.recordFault f) := by
  cases i
  case nop | gfExp | gfMul | bchFmt | bchVer => cases h; exact .inl ⟨_, .results _ s _ _, rfl⟩
  case bsClear => cases h; exact .inl ⟨_, .stream _ s _ _ _ _ rfl fun _ => rfl, rfl⟩
  all_goals refine finish_writes (fun t ht => ?_) h
  case gfLog | mxScore =>
    split at ht; · cases ht
    cases ht; exact .results _ s _ _
  case mxGet =>
    split at ht; · cases ht
    split at ht; · cases ht
    cases ht; exact .results _ s _ _
  case rsGen k =>
    split at ht; · cases ht
    rename_i hk
    cases ht; exact .generator k s _ (by omega)
  case rsDiv =>
    dsimp only at ht
    split at ht; · cases ht
    split at ht; · cases ht
    split at ht; · cases ht
    cases ht; exact .remainder s _ _
  case segNum | segAlnum | segByte | segKanji => exact segPack_writes rfl rfl ht
  case' bsFinal => dsimp only at ht
  case bsPut | bsFinal =>
    split at ht; · cases ht
    split at ht; · cases ht
    split at ht; · cases ht
    rename_i u hu
    cases ht
    have hf := State.writeBits_frame hu
    rw [hf]
    exact .stream _ s _ _ _ _ rfl nofun
  case mxBuild m x =>
    split at ht; · cases ht
    rename_i hv
    split at ht; · cases ht
    split at ht; · cases ht
    split at ht; · cases ht
    cases ht; exact .matrix _ s _ m _ _ s.penalty _ _ rfl hv (by split <;> simp) fun _ => rfl
  case mxMake =>
    split at ht; · cases ht
    rename_i hv
    split at ht; · cases ht
    split at ht; · cases ht
    dsimp only at ht
    split at ht; · cases ht
    cases ht; exact .matrix _ s _ _ false .final _ _ _ rfl hv (by simp) fun hn => absurd rfl hn

/-! Who writes what. -/

/-- Settles O23: each of the three ends of a command leaves the host's registers and the model's own fields alone. -/
theorem commandsKeepHostRegisters : Obligations.CommandsKeepHostRegisters := by
  intro i s t h
  obtain ⟨u, hu, rfl⟩ | ⟨c, rfl⟩ | ⟨f, rfl⟩ := exec_cases h
  · cases hu <;> simp
  · simp
  · simp

/-- Settles O25: each store is written by one constructor of `Writes`, and that one belongs to the store's owners. -/
theorem onlyOwnersWriteStores : Obligations.OnlyOwnersWriteStores := by
  intro i s t h
  obtain ⟨u, hu, rfl⟩ | ⟨c, rfl⟩ | ⟨f, rfl⟩ := exec_cases h
  · cases hu with
    | results => simp
    | generator => simp [buildsGenerator]
    | remainder => simp [storesToM]
    | stream _ _ m l r0 r1 hi hm => simpa [hi] using hm
    | matrix _ _ cw m test x p r0 r1 hi hv hx hp => simpa using hp
  · simp
  · simp

end Sys2Proof.Machine
end

section
/-! PROOFS. The fields of STATUS (10_state.md R23). -/

namespace Sys2Proof.Machine

open Sys2Proof

/-- ERRF is 1 exactly when ERR holds a code other than NONE (10_state.md R23). -/
theorem State.errf_eq (s : State) : s.errf = decide (s.err ≠ .none) := by
  unfold State.errf
  cases s.err <;> rfl

theorem State.status_errf (s : State) : s.status.getLsbD 1 = s.errf := by
  unfold State.status
  rw [BitVec.getLsbD_append, BitVec.getLsbD_append]
  cases s.errf <;> rfl

/-- A field of STATUS above its two flags, ERRF and BUSY. -/
theorem State.status_above_flags (s : State) (start len : Nat) :
    s.status.extractLsb' (2 + start) len = (0#8 ++ s.lastOpc ++ s.err.code ++ 0#6).extractLsb' start len := by
  unfold State.status
  rw [BitVec.extractLsb'_append_eq_of_le (by omega), BitVec.extractLsb'_append_eq_of_le (by omega)]
  congr 1
  omega

theorem State.status_reserved_low (s : State) : s.status.extractLsb' 2 6 = 0 := by
  rw [s.status_above_flags 0 6, BitVec.extractLsb'_append_eq_of_add_le (by decide)]
  rfl

theorem State.status_lastOpc (s : State) : s.status.extractLsb' 16 8 = s.lastOpc := by
  rw [s.status_above_flags 14 8, BitVec.extractLsb'_append_eq_of_le (by decide),
    BitVec.extractLsb'_append_eq_of_le (by decide), BitVec.extractLsb'_append_eq_of_add_le (by decide)]
  exact BitVec.extractLsb'_eq_self

theorem State.status_reserved_high (s : State) : s.status.extractLsb' 24 8 = 0 := by
  rw [s.status_above_flags 22 8, BitVec.extractLsb'_append_eq_of_le (by decide),
    BitVec.extractLsb'_append_eq_of_le (by decide), BitVec.extractLsb'_append_eq_of_le (by decide)]
  rfl

/-- Settles O11: one lemma per field of STATUS, and the codes by evaluation. -/
theorem statusFields : Obligations.StatusFields := by
  refine ⟨fun s => ⟨s.status_busy, ?_, s.status_reserved_low, s.status_err, s.status_lastOpc, s.status_reserved_high⟩, rfl⟩
  rw [s.status_errf, s.errf_eq]

end Sys2Proof.Machine
end

section
/-! PROOFS. Host accesses: the target of each offset (10_state.md R22, R35), what an access does to a register, and the
record of a bad access. -/

namespace Sys2Proof.Machine

open Sys2Proof Sys2Proof.Claims

/-! The registers of the map lie at rising offsets. -/

/-- The registers of the map that have no number (10_state.md R22). -/
def singleRegs : List HostReg :=
  [.cmd, .status, .arg0, .arg1, .arg2, .res0, .res1, .version] ++
  [.ecLevel, .bsBase, .bsLen, .genLen, .mask, .modCount, .mtxState]

theorem hostRegs_eq (n : Nat) :
    hostRegs n = singleRegs ++ (List.range 8).map .penalty ++ (List.range (n + 1)).map .gen := rfl

theorem mem_hostRegs {n : Nat} {r : HostReg} :
    r ∈ hostRegs n ↔ r ∈ singleRegs ∨ (∃ m, m < 8 ∧ .penalty m = r) ∨ ∃ j, j ≤ n ∧ .gen j = r := by
  simp only [hostRegs_eq, List.mem_append, List.mem_map, List.mem_range, Nat.lt_succ_iff, or_assoc]

theorem singleRegs_offset : ∀ r ∈ singleRegs, r.offset % 4 = 0 ∧ r.offset ≤ 0x038 := by decide

/-- Registers lie at multiples of 4, in three ranges: the registers without a number, PENALTY and GEN (10_state.md R22). -/
theorem hostRegs_offset {n : Nat} {r : HostReg} (h : r ∈ hostRegs n) :
    r.offset % 4 = 0 ∧ (r.offset ≤ 0x038 ∨ (0x040 ≤ r.offset ∧ r.offset < 0x060) ∨
      (0x080 ≤ r.offset ∧ r.offset < 0x080 + 4 * (n + 1))) := by
  obtain hs | ⟨m, hm, rfl⟩ | ⟨j, hj, rfl⟩ := mem_hostRegs.mp h
  · have := singleRegs_offset r hs
    omega
  · simp only [HostReg.offset]; omega
  · simp only [HostReg.offset]; omega

theorem hostRegs_rising (n : Nat) : (hostRegs n).Pairwise fun r r' => r.offset < r'.offset := by
  have hs : singleRegs.Pairwise fun r r' => r.offset < r'.offset := by decide
  have hp : ((List.range 8).map HostReg.penalty).Pairwise fun r r' => r.offset < r'.offset :=
    List.pairwise_map.mpr (List.pairwise_lt_range.imp fun h => by simp only [HostReg.offset]; omega)
  have hg : ((List.range (n + 1)).map HostReg.gen).Pairwise fun r r' => r.offset < r'.offset :=
    List.pairwise_map.mpr (List.pairwise_lt_range.imp fun h => by simp only [HostReg.offset]; omega)
  rw [hostRegs_eq, List.append_assoc]
  refine List.pairwise_append.mpr ⟨hs, List.pairwise_append.mpr ⟨hp, hg, ?_⟩, ?_⟩
  · simp only [List.mem_map, List.mem_range]
    rintro _ ⟨m, hm, rfl⟩ _ ⟨j, -, rfl⟩
    simp only [HostReg.offset]; omega
  · intro r hr r' hr'
    have hr := singleRegs_offset r hr
    simp only [List.mem_append, List.mem_map, List.mem_range] at hr'
    obtain ⟨m, -, rfl⟩ | ⟨j, -, rfl⟩ := hr' <;> simp only [HostReg.offset] at hr ⊢ <;> omega

/-- A register is found at its own offset. -/
theorem hostRegs_find {n : Nat} {r : HostReg} (h : r ∈ hostRegs n) :
    (hostRegs n).find? (fun r' => r'.offset == r.offset) = some r := by
  obtain ⟨before, after, hl⟩ := List.append_of_mem h
  have hrise := hostRegs_rising n
  rw [hl] at hrise
  refine List.find?_eq_some_iff_append.mpr ⟨by simp, before, after, hl, fun r' hr' => ?_⟩
  have := (List.pairwise_append.mp hrise).2.2 r' hr' r (by simp)
  simp only [Bool.not_eq_true', beq_eq_false_iff_ne]
  omega

/-! The target of an access. -/

/-- A 32-bit access at a register's offset reaches it (10_state.md R22). -/
theorem hostTarget_register {p : Params} {r : HostReg} (hp : p.Legal) (h : r ∈ hostRegs p.ecMax) :
    hostTarget p r.offset 32 = .register r := by
  have hlow : ¬windowBase ≤ r.offset := by
    have := hostRegs_offset h
    unfold Params.Legal at hp
    simp only [windowBase]; omega
  simp [hostTarget, hlow, hostRegs_find h]

/-- Below the window, an access that is not 32 bits at a register's offset reaches nothing (10_state.md R35, 20_memory.md
R65). -/
theorem hostTarget_bad_register {p : Params} {offset width : Nat} (hlow : offset < windowBase)
    (h : width = 32 → ∀ r ∈ hostRegs p.ecMax, r.offset ≠ offset) : hostTarget p offset width = .bad := by
  have hnone (hw : width = 32) : (hostRegs p.ecMax).find? (fun r => r.offset == offset) = none :=
    List.find?_eq_none.mpr (by simpa using h hw)
  by_cases hw : width = 32
  · simp [hostTarget, Nat.not_le.mpr hlow, hw, hnone hw]
  · simp [hostTarget, Nat.not_le.mpr hlow, hw]

/-- In the window, an access that is no byte access to M reaches nothing (20_memory.md R64). -/
theorem hostTarget_bad_window {p : Params} {offset width : Nat} (hw : windowBase ≤ offset)
    (h : width ≠ 8 ∨ windowBase + p.memSize ≤ offset) : hostTarget p offset width = .bad := by
  have hbad : ¬(offset - windowBase < p.memSize ∧ width = 8) := by omega
  simp [hostTarget, hw, hbad]

/-! What an access does while BUSY = 0. -/

theorem State.hostAccess_idle {s : State} (hb : s.busy = false) (a : HostAccess) : s.hostAccess a = s.idleAccess a := by
  simp [State.hostAccess, hb]

theorem State.idleAccess_read_register {s : State} {offset width : Nat} {r : HostReg}
    (h : hostTarget s.params offset width = .register r) :
    s.idleAccess (.read offset width) = { s with lastRead := some (s.readReg r) } := by
  simp [State.idleAccess, h]

theorem State.idleAccess_write_register {s : State} {offset width : Nat} {w : Word} {r : HostReg}
    (h : hostTarget s.params offset width = .register r) :
    s.idleAccess (.write offset width w) = s.writeReg r w := by
  simp [State.idleAccess, h]

theorem State.idleAccess_bad {s : State} {a : HostAccess} (h : hostTarget s.params a.offset a.width = .bad) :
    s.idleAccess a = s.recordFault (.hostBadAccess a.offset a.width) := by
  cases a <;> simp only [HostAccess.offset, HostAccess.width] at h <;>
    simp [State.idleAccess, h, HostAccess.offset, HostAccess.width]

/-- The step of a host access while BUSY = 0 (20_memory.md R75). -/
theorem step_host_idle {s : State} {a : HostAccess} {rest : List Turn} (hf : s.fault = none) (hb : s.busy = false)
    (h : s.schedule = .host a :: rest) : step s = .next ((s.withTurns rest).idleAccess a) := by
  rw [← State.hostAccess_idle (by simpa using hb)]
  exact takeTurn_host hf h

/-- The step of a 32-bit read of a register (10_state.md R22). -/
theorem step_read_register {s : State} {rest : List Turn} {r : HostReg} (hf : s.fault = none) (hb : s.busy = false)
    (hp : s.params.Legal) (hr : r ∈ hostRegs s.params.ecMax) (h : s.schedule = .host (.read r.offset 32) :: rest) :
    step s = .next { s with schedule := rest, lastRead := some (s.readReg r) } := by
  have ht : hostTarget (s.withTurns rest).params r.offset 32 = .register r := hostTarget_register hp hr
  rw [step_host_idle hf hb h, State.idleAccess_read_register ht]
  cases r <;> rfl

/-- The step of a 32-bit write of a register (10_state.md R22). -/
theorem step_write_register {s : State} {rest : List Turn} {r : HostReg} {w : Word} (hf : s.fault = none)
    (hb : s.busy = false) (hp : s.params.Legal) (hr : r ∈ hostRegs s.params.ecMax)
    (h : s.schedule = .host (.write r.offset 32 w) :: rest) : step s = .next ((s.withTurns rest).writeReg r w) := by
  have ht : hostTarget (s.withTurns rest).params r.offset 32 = .register r := hostTarget_register hp hr
  rw [step_host_idle hf hb h, State.idleAccess_write_register ht]

/-- The step of an access that reaches nothing (10_state.md R35). -/
theorem step_bad_access {s : State} {a : HostAccess} {rest : List Turn} (hf : s.fault = none) (hb : s.busy = false)
    (h : s.schedule = .host a :: rest) (ht : hostTarget s.params a.offset a.width = .bad) :
    step s = .next { s with schedule := rest, fault := some (.hostBadAccess a.offset a.width) } := by
  have ht : hostTarget (s.withTurns rest).params a.offset a.width = .bad := ht
  rw [step_host_idle hf hb h, State.idleAccess_bad ht, State.recordFault, State.withTurns_fault, hf]
  rfl

/-- Settles O15: none of the listed accesses reaches a register or a byte of M. -/
theorem badAccessFaults : Obligations.BadAccessFaults := by
  intro s rest a hf hb hs h
  refine step_bad_access hf hb hs ?_
  by_cases hw : windowBase ≤ a.offset
  · refine hostTarget_bad_window hw ?_
    simp only [windowBase] at hw ⊢; omega
  · refine hostTarget_bad_register (Nat.lt_of_not_le hw) fun h32 r hr => ?_
    have := hostRegs_offset hr
    simp only [windowBase] at hw; omega

/-- The registers without a number and what they read as, in the order of the map (10_state.md R22). -/
theorem singleRegs_read (s : State) :
    singleRegs.map (fun r => (r.offset, s.readReg r)) =
      [(0x000, s.cmd), (0x004, s.status), (0x008, s.arg0), (0x00C, s.arg1), (0x010, s.arg2), (0x014, s.res0),
        (0x018, s.res1), (0x01C, s.version.setWidth 32), (0x020, s.ecLevel.setWidth 32), (0x024, s.bsBase),
        (0x028, s.bsLen), (0x02C, s.genLen.setWidth 32), (0x030, s.mask.setWidth 32), (0x034, s.modCount.setWidth 32),
        (0x038, if s.mtxState = .none then 0 else if s.mtxState = .test then 1 else 2)] := by
  have hm : s.mtxState.code.setWidth 32 = if s.mtxState = .none then 0#32 else if s.mtxState = .test then 1 else 2 := by
    cases s.mtxState <;> rfl
  simp [singleRegs, HostReg.offset, State.readReg, hm]

/-- Settles O12: each listed pair is a register of the map with what it reads as. -/
theorem registerReads : Obligations.RegisterReads := by
  intro s rest offset value hf hb hp hs h
  obtain ⟨r, hr, rfl, rfl⟩ : ∃ r ∈ hostRegs s.params.ecMax, r.offset = offset ∧ s.readReg r = value := by
    rw [← singleRegs_read s] at h
    obtain h | ⟨m, rfl, rfl⟩ | ⟨j, hj, rfl, rfl⟩ := h
    · obtain ⟨r, hr, he⟩ := List.mem_map.mp h
      cases he
      exact ⟨r, mem_hostRegs.mpr (.inl hr), rfl, rfl⟩
    · refine ⟨.penalty m, mem_hostRegs.mpr (.inr (.inl ⟨m, m.isLt, rfl⟩)), rfl, ?_⟩
      simp [State.readReg]
    · exact ⟨.gen j, mem_hostRegs.mpr (.inr (.inr ⟨j, hj, rfl⟩)), rfl, rfl⟩
  exact step_read_register hf hb hp hr hs

/-- The registers a host write does not change (10_state.md R36). -/
def HostReg.readOnly : HostReg → Bool
  | .cmd | .arg0 | .arg1 | .arg2 | .version | .ecLevel | .bsBase => false
  | .status | .res0 | .res1 | .bsLen | .genLen | .mask | .modCount | .mtxState | .penalty _ | .gen _ => true

theorem State.writeReg_readOnly (s : State) {r : HostReg} (w : Word) (h : r.readOnly = true) : s.writeReg r w = s := by
  cases r <;> simp_all [HostReg.readOnly, State.writeReg]

/-- The offsets of the read-only registers without a number (10_state.md R22). -/
theorem singleRegs_readOnly : (singleRegs.filter HostReg.readOnly).map HostReg.offset =
    [0x004, 0x014, 0x018, 0x028, 0x02C, 0x030, 0x034, 0x038] := rfl

/-- Settles O13: each offset is a register's, and the write of that register is what the statement says. -/
theorem registerWrites : Obligations.RegisterWrites := by
  intro s rest offset w hf hb hp hs
  have hwrite (r : HostReg) (hr : r ∈ hostRegs s.params.ecMax) (ho : offset = r.offset) :
      step s = .next ((s.withTurns rest).writeReg r w) := by
    subst ho
    exact step_write_register hf hb hp hr hs
  have hsingle (r : HostReg) (hr : r ∈ singleRegs) := hwrite r (mem_hostRegs.mpr (.inl hr))
  refine ⟨hsingle .arg0 (by decide), hsingle .arg1 (by decide), hsingle .arg2 (by decide), fun ho => ?_, fun ho => ?_,
    hsingle .bsBase (by decide), fun h => ?_⟩
  · rw [← BitVec.setWidth_eq_extractLsb' (by decide)]
    exact hsingle .version (by decide) ho
  · rw [← BitVec.setWidth_eq_extractLsb' (by decide)]
    exact hsingle .ecLevel (by decide) ho
  · obtain ⟨r, hr, ho, hro⟩ : ∃ r ∈ hostRegs s.params.ecMax, offset = r.offset ∧ r.readOnly = true := by
      rw [← singleRegs_readOnly] at h
      obtain h | ⟨m, hm, rfl⟩ | ⟨j, hj, rfl⟩ := h
      · obtain ⟨r, hr, rfl⟩ := List.mem_map.mp h
        obtain ⟨hr, hro⟩ := List.mem_filter.mp hr
        exact ⟨r, mem_hostRegs.mpr (.inl hr), rfl, hro⟩
      · exact ⟨.penalty m, mem_hostRegs.mpr (.inr (.inl ⟨m, hm, rfl⟩)), rfl, rfl⟩
      · exact ⟨.gen j, mem_hostRegs.mpr (.inr (.inr ⟨j, hj, rfl⟩)), rfl, rfl⟩
    rw [hwrite r hr ho, State.writeReg_readOnly _ w hro]
    rfl

end Sys2Proof.Machine
end

section
/-! PROOFS. Everything a step can do to the stores that only the engine writes: the GEN store and the matrix. -/

namespace Sys2Proof.Machine

open Sys2Proof Sys2Proof.Claims

/-- t has the parameters, the GEN store and the matrix of s. -/
structure SameStores (s t : State) : Prop where
  params : t.params = s.params
  genLen : t.genLen = s.genLen
  gen : t.gen = s.gen
  modCount : t.modCount = s.modCount
  mtxState : t.mtxState = s.mtxState
  mtx : t.mtx = s.mtx

theorem SameStores.trans {s t u : State} (h : SameStores s t) (h' : SameStores t u) : SameStores s u :=
  ⟨h'.params.trans h.params, h'.genLen.trans h.genLen, h'.gen.trans h.gen, h'.modCount.trans h.modCount,
    h'.mtxState.trans h.mtxState, h'.mtx.trans h.mtx⟩

theorem withTurns_sameStores (s : State) (rest : List Turn) : SameStores s (s.withTurns rest) :=
  ⟨rfl, rfl, rfl, rfl, rfl, rfl⟩

theorem withProgram_sameStores (s : State) (p : List HostStep) : SameStores s (s.withProgram p) :=
  ⟨rfl, rfl, rfl, rfl, rfl, rfl⟩

theorem complete_sameStores (s : State) (c : ErrCode) : SameStores s (s.complete c) := ⟨rfl, rfl, rfl, rfl, rfl, rfl⟩

theorem recordFault_sameStores (s : State) (f : Fault) : SameStores s (s.recordFault f) := ⟨rfl, rfl, rfl, rfl, rfl, rfl⟩

theorem writeReg_sameStores (s : State) (r : HostReg) (w : Word) : SameStores s (s.writeReg r w) := by
  cases r <;> exact ⟨rfl, rfl, rfl, rfl, rfl, rfl⟩

/-- A byte access in the window reaches a byte of M (20_memory.md R64). -/
theorem hostTarget_byte {p : Params} {offset width x : Nat} (h : hostTarget p offset width = .byte x) : x < p.memSize := by
  unfold hostTarget at h
  split at h
  · split at h
    · rename_i hx
      rw [← HostTarget.byte.inj h]
      exact hx.1
    · cases h
  · split at h
    · split at h <;> cases h
    · cases h

/-- Everything a host access can do (10_state.md R36, 20_memory.md R64, 70_reset_and_hazards.md R340): a read, a register
write, the write of a byte of M, or the record of a fault. -/
theorem State.hostAccess_cases (s : State) (a : HostAccess) :
    (∃ w, s.hostAccess a = { s with lastRead := some w }) ∨ (∃ r w, s.hostAccess a = s.writeReg r w) ∨
    (∃ x b, x < s.params.memSize ∧ s.hostAccess a = { s with mem := s.mem.write x b }) ∨
    (∃ f, s.hostAccess a = s.recordFault f) := by
  unfold State.hostAccess
  split
  · exact .inr (.inr (.inr ⟨_, rfl⟩))
  cases a with
  | read offset width =>
    cases ht : hostTarget s.params offset width with
    | register r => exact .inl ⟨_, State.idleAccess_read_register ht⟩
    | byte x =>
      cases hx : s.mem.read x with
      | none => exact .inr (.inr (.inr ⟨.uninitRead x, by simp [State.idleAccess, ht, hx]⟩))
      | some b => exact .inl ⟨b.setWidth 32, by simp [State.idleAccess, ht, hx]⟩
    | bad => exact .inr (.inr (.inr ⟨_, State.idleAccess_bad ht⟩))
  | write offset width w =>
    cases ht : hostTarget s.params offset width with
    | register r => exact .inr (.inl ⟨r, w, State.idleAccess_write_register ht⟩)
    | byte x =>
      exact .inr (.inr (.inl ⟨x, w.setWidth 8, hostTarget_byte ht, by simp [State.idleAccess, ht]⟩))
    | bad => exact .inr (.inr (.inr ⟨_, State.idleAccess_bad ht⟩))

theorem hostAccess_sameStores (s : State) (a : HostAccess) : SameStores s (s.hostAccess a) := by
  obtain ⟨w, h⟩ | ⟨r, w, h⟩ | ⟨x, b, -, h⟩ | ⟨f, h⟩ := s.hostAccess_cases a <;> rw [h]
  · exact ⟨rfl, rfl, rfl, rfl, rfl, rfl⟩
  · exact writeReg_sameStores s r w
  · exact ⟨rfl, rfl, rfl, rfl, rfl, rfl⟩
  · exact recordFault_sameStores s f

theorem programStep_sameStores (s : State) : SameStores s s.programStep := by
  obtain ⟨-, h⟩ | ⟨a, rest, -, h⟩ | ⟨rest, -, h⟩ | ⟨rest, -, h⟩ := programStep_cases s <;> rw [h]
  · exact ⟨rfl, rfl, rfl, rfl, rfl, rfl⟩
  · exact (withProgram_sameStores s rest).trans (hostAccess_sameStores _ a)
  · exact ⟨rfl, rfl, rfl, rfl, rfl, rfl⟩
  · split <;> exact ⟨rfl, rfl, rfl, rfl, rfl, rfl⟩

/-- A command changes no store or succeeds and makes its writes (60_exceptions.md R303, R306). -/
theorem exec_stores {i : Instr} {s t : State} (h : exec i s = .next t) :
    SameStores s t ∨ ∃ u, Writes i s u ∧ t = u.complete .none := by
  obtain hw | ⟨c, rfl⟩ | ⟨f, rfl⟩ := exec_cases h
  · exact .inr hw
  · exact .inl (complete_sameStores s c)
  · exact .inl (recordFault_sameStores s f)

/-- Everything a step can do to the stores: the reset input, nothing, or the writes of a command. -/
theorem step_stores {s t : State} (h : step s = .next t) :
    (∃ rest, t = (s.withTurns rest).resetInput) ∨ SameStores s t ∨
    (∃ i rest u, Writes i (s.withTurns rest) u ∧ t = u.complete .none) := by
  obtain ⟨rest, -, hs⟩ | ⟨f, -, hs⟩ | ⟨a, rest, -, -, hs⟩ | ⟨rest, -, -, hs⟩ | ⟨rest, -, -, hs⟩ := step_cases s <;>
    rw [hs] at h
  · cases h; exact .inl ⟨rest, rfl⟩
  · cases h
  · cases h; exact .inr (.inl ((withTurns_sameStores s rest).trans (hostAccess_sameStores _ a)))
  · cases h; exact .inr (.inl ((withTurns_sameStores s rest).trans (programStep_sameStores _)))
  · obtain ⟨-, he⟩ | ⟨-, i, -, he⟩ | ⟨-, r, -, he⟩ := engineTurn_cases (s.withTurns rest) <;> rw [he] at h
    · cases h; exact .inr (.inl (withTurns_sameStores s rest))
    · obtain hsame | ⟨u, hu, rfl⟩ := exec_stores h
      · exact .inr (.inl ((withTurns_sameStores s rest).trans hsame))
      · exact .inr (.inr ⟨i, rest, u, hu, rfl⟩)
    · cases h; exact .inr (.inl ((withTurns_sameStores s rest).trans (complete_sameStores _ _)))

/-- Settles O16: of the steps a state with a fault has, only the reset input answers a next state, and it keeps FAULT. -/
theorem faultIsNeverCleared : Obligations.FaultIsNeverCleared := by
  intro s f hf
  obtain ⟨rest, hr, hs⟩ | ⟨g, hg, hs⟩ | ⟨a, rest, hn, -⟩ | ⟨rest, hn, -⟩ | ⟨rest, hn, -⟩ := step_cases s
  · refine ⟨fun t h => ?_, fun h => absurd hr (h rest)⟩
    rw [hs] at h
    cases h
    exact hf
  · obtain rfl : g = f := Option.some.inj (hg.symm.trans hf)
    refine ⟨fun t h => ?_, fun _ => hs⟩
    rw [hs] at h
    cases h
  all_goals rw [hn] at hf; cases hf

end Sys2Proof.Machine
end

section
/-! PROOFS. The generator polynomial is monic of degree k (42_rs.md R163), and every step keeps it in the GEN store. -/

namespace Sys2Proof.Machine

open Sys2Proof

/-- A monic polynomial times x + a is monic, one degree higher, and has nothing to strip (42_rs.md R160, R161). -/
theorem polyMul_monic (p : List Byte) (a : Byte) :
    ∃ q, polyMul (1 :: p) [1, a] = 1 :: q ∧ q.length = p.length + 1 := by
  have hone : gfMul 1 1 ^^^ 0 = 1 := by decide
  refine ⟨List.zipWith (· ^^^ ·) (gfMul 1 a :: List.replicate p.length 0) (convolve p [1, a]), ?_, ?_⟩
  · simp only [polyMul, convolve, List.map_cons, List.map_nil, List.cons_append, List.nil_append, List.zipWith_cons_cons,
      hone]
    exact strip_of_head_ne_zero _ (by decide)
  · simp [convolve_length]

/-- Gen(k) is monic of degree k (42_rs.md R163). -/
theorem genPoly_monic (k : Nat) : ∃ q, genPoly k = 1 :: q ∧ q.length = k := by
  induction k with
  | zero => exact ⟨[], rfl, rfl⟩
  | succ k ih =>
    obtain ⟨p, hp, hl⟩ := ih
    simpa [genPoly, hp, hl] using polyMul_monic p (expRom k)

theorem genPoly_length (k : Nat) : (genPoly k).length = k + 1 := by
  obtain ⟨q, hq, hl⟩ := genPoly_monic k
  simp [hq, hl]

@[simp] theorem genStore_length (n k : Nat) : (genStore n k).length = n + 1 := by simp [genStore]

/-- The first k + 1 slots hold Gen(k). -/
theorem genStore_take {n k : Nat} (h : k ≤ n) : (genStore n k).take (k + 1) = genPoly k := by
  refine List.ext_getElem (by simp [genPoly_length, h]) fun j hj hj' => ?_
  have hjk : j ≤ k := by rw [genPoly_length] at hj'; omega
  simp [genStore, hjk, List.getElem?_eq_getElem hj']

/-- The slots after them hold 0. -/
theorem genStore_beyond (n : Nat) {k j : Nat} (h : k < j) : (genStore n k).getD j 0 = 0 := by
  by_cases hj : j < n + 1
  · simp [genStore, hj, Nat.not_le.mpr h]
  · exact List.getD_eq_default _ _ (by simpa using hj)

/-- GeneratorSound is about the parameters and the GEN store alone. -/
theorem State.GeneratorSound.congr {s t : State} (h : s.GeneratorSound) (hp : t.params = s.params)
    (hl : t.genLen = s.genLen) (hg : t.gen = s.gen) : t.GeneratorSound := by
  constructor <;> simp only [hp, hl, hg]
  exacts [h.slots, h.bounded, h.holdsGen, h.zeroBeyond]

theorem resetInput_generatorSound (s : State) : s.resetInput.GeneratorSound where
  slots := by simp [State.resetInput, State.resetOf]
  bounded := by simp [State.resetInput, State.resetOf]
  holdsGen := fun h => absurd rfl h
  zeroBeyond := fun j _ => by
    simp only [State.resetInput, State.resetOf, List.getD_eq_getElem?_getD, List.getElem?_replicate]
    split <;> rfl

/-- Settles O58: the reset input clears the GEN store, RS_GEN fills it with Gen(k), and nothing else writes it. -/
theorem stepKeepsGeneratorSound : Obligations.StepKeepsGeneratorSound := by
  intro s t _ h hstep
  obtain ⟨rest, rfl⟩ | hsame | ⟨i, rest, u, hu, rfl⟩ := step_stores hstep
  · exact resetInput_generatorSound _
  · exact h.congr hsame.params hsame.genLen hsame.gen
  · cases hu with
    | generator k _ r0 hk =>
      exact ⟨genStore_length _ _, hk, fun _ => genStore_take hk, fun j hj => genStore_beyond _ hj⟩
    | _ => exact h.congr rfl rfl rfl

end Sys2Proof.Machine
end

section
/-! PROOFS. A render resolves every cell of its square (45_matrix.md R257), and every step keeps the matrix resolved. -/

namespace Sys2Proof.Machine

open Sys2Proof

/-! Every cell is in the timing column or in the traversal. -/

/-- Every column but 6 is in a column pair of the traversal (45_matrix.md R249). -/
theorem pairColumn_covers {n c : Nat} (h7 : 7 ≤ n) (hn : n % 2 = 1) (hc : c < n) (h6 : c ≠ 6) :
    ∃ p, p < (n - 1) / 2 ∧ (c = pairColumn n p ∨ c = pairColumn n p - 1) := by
  by_cases h : 6 < c
  · refine ⟨(n - 1 - c) / 2, by omega, ?_⟩
    have hcol : ¬n - 1 - 2 * ((n - 1 - c) / 2) ≤ 6 := by omega
    simp only [pairColumn, hcol, if_false]
    omega
  · refine ⟨(n - 2 - c) / 2, by omega, ?_⟩
    have hcol : n - 1 - 2 * ((n - 2 - c) / 2) ≤ 6 := by omega
    simp only [pairColumn, hcol, if_true]
    omega

theorem mem_pairRows {n p r : Nat} : r ∈ pairRows n p ↔ r < n := by
  unfold pairRows
  split <;> simp

/-- The traversal visits every cell outside column 6 (45_matrix.md R249). -/
theorem mem_zigzag {n r c : Nat} (h7 : 7 ≤ n) (hn : n % 2 = 1) (hr : r < n) (hc : c < n) (h6 : c ≠ 6) :
    (r, c) ∈ zigzag n := by
  obtain ⟨p, hp, h⟩ := pairColumn_covers h7 hn hc h6
  simp only [zigzag, List.mem_flatMap, List.mem_range]
  exact ⟨p, hp, r, mem_pairRows.mpr hr, by simpa using h⟩

/-- The timing pattern sets column 6 (45_matrix.md R245). -/
theorem placeTiming_sets_column {n r : Nat} (g : Grid) (hn : n ≤ 177) (hr : r < n) : (placeTiming n g).get r 6 ≠ .unset :=
  putAllIfUnset_sets (w := (r, 6, r % 2 == 0))
    (List.mem_flatMap.mpr ⟨r, List.mem_range.mpr hr, by simp⟩) (by simp only; omega) (by simp)

theorem placeFormat_keeps_set {n word r c : Nat} {test : Bool} {g : Grid} (h : g.get r c ≠ .unset) :
    (placeFormat n word test g).get r c ≠ .unset :=
  Grid.put_keeps_set _ _ _ (putAll_keeps_set _ h)

theorem placeVersion_keeps_set {v r c : Nat} {test : Bool} {g : Grid} (h : g.get r c ≠ .unset) :
    (placeVersion v test g).get r c ≠ .unset := by
  unfold placeVersion
  split
  · exact putAll_keeps_set _ h
  · exact h

theorem functionGrid_sets_column {v r : Nat} (e : BitVec 2) (m : BitVec 3) (test : Bool) (hn : sideOf v ≤ 177)
    (hr : r < sideOf v) : (functionGrid v e m test).get r 6 ≠ .unset :=
  placeVersion_keeps_set (placeFormat_keeps_set (placeTiming_sets_column _ hn hr))

/-- A render leaves no cell of its square unset (45_matrix.md R257): column 6 is set by the timing pattern, and the traversal
sets or keeps every other cell. -/
theorem render_resolves {v r c : Nat} (e : BitVec 2) (cw : List Byte) (m : BitVec 3) (test : Bool) (hv : v ≤ 40)
    (hr : r < sideOf v) (hc : c < sideOf v) : (render v e cw m test).get r c ≠ .unset := by
  have hn : sideOf v ≤ 177 := by unfold sideOf; omega
  by_cases h6 : c = 6
  · subst h6
    have hset := functionGrid_sets_column e m test hn hr
    have hkeep : (render v e cw m test).get r 6 = (functionGrid v e m test).get r 6 := placeBits_keeps _ hset
    rw [hkeep]
    exact hset
  · have h7 : 7 ≤ sideOf v := by unfold sideOf; omega
    have hodd : sideOf v % 2 = 1 := by unfold sideOf; omega
    exact placeBits_sets (mem_zigzag h7 hodd hr hc h6) (by simp only; omega) (by simp only; omega)

/-! The invariant. -/

/-- MatrixSound is about the matrix and its registers alone. -/
theorem State.MatrixSound.congr {s t : State} (h : s.MatrixSound) (hc : t.modCount = s.modCount)
    (hs : t.mtxState = s.mtxState) (hg : t.mtx = s.mtx) : t.MatrixSound := by
  constructor <;> simp only [hc, hs, hg]
  exacts [h.absent, h.side, h.resolved]

theorem resetInput_matrixSound (s : State) : s.resetInput.MatrixSound where
  absent := fun _ => rfl
  side := fun h => absurd rfl h
  resolved := fun h => absurd rfl h

/-- MODCOUNT holds the side of a legal version (10_state.md R32). -/
theorem sideOf_toNat {v : Nat} (hv : v ≤ 40) : (BitVec.ofNat 8 (sideOf v)).toNat = sideOf v := by
  simp only [BitVec.toNat_ofNat, sideOf]
  omega

/-- A render of a legal version is a sound matrix (45_matrix.md R254, R257). -/
theorem withMatrix_matrixSound {s : State} (cw : List Byte) (m : BitVec 3) (test : Bool) {x : MtxState}
    (hv : ¬s.versionIllegal) (hx : x ≠ .none) :
    (s.withMatrix (render s.v s.ecLevel cw m test) m x).MatrixSound := by
  unfold State.versionIllegal at hv
  have hside : (s.withMatrix (render s.v s.ecLevel cw m test) m x).modCount.toNat = sideOf s.v :=
    sideOf_toNat (by omega)
  exact {
    absent := fun h => absurd h hx
    side := fun _ => ⟨s.v, by omega, by omega, hside⟩
    resolved := fun _ r c hr hc => render_resolves _ cw m test (by omega) (hside ▸ hr) (hside ▸ hc) }

/-- Settles O60: the reset input clears the matrix, a build puts a render of a legal version there, and nothing else writes
it. -/
theorem stepKeepsMatrixSound : Obligations.StepKeepsMatrixSound := by
  intro s t h hstep
  obtain ⟨rest, rfl⟩ | hsame | ⟨i, rest, u, hu, rfl⟩ := step_stores hstep
  · exact resetInput_matrixSound _
  · exact h.congr hsame.modCount hsame.mtxState hsame.mtx
  · cases hu with
    | matrix _ _ cw m test x p r0 r1 _ hv hx _ => exact (withMatrix_matrixSound cw m test hv hx).congr rfl rfl rfl
    | _ => exact h.congr rfl rfl rfl

end Sys2Proof.Machine
end

section
/-! PROOFS. What a command does with M (20_memory.md R62, R63): the bytes it stores lie inside M, and the one model fault it
ends with is the read of an undefined byte inside M. -/

namespace Sys2Proof.Machine

open Sys2Proof

/-! Storing a run of bytes. -/

/-- t has the parameters of s, and its M is that of s with one run of bytes stored, all of it below MEM_SIZE (20_memory.md
R60, R62). -/
structure StoresInside (s t : State) : Prop where
  params : t.params = s.params
  mem : ∃ a vs, a + vs.length ≤ s.params.memSize ∧ t.mem = s.mem.writeBytes a vs

theorem storesInside_of_mem_eq {s t : State} (hp : t.params = s.params) (hm : t.mem = s.mem) : StoresInside s t :=
  ⟨hp, 0, [], Nat.zero_le _, hm⟩

theorem StoresInside.congr {s t u : State} (h : StoresInside s t) (hp : u.params = t.params) (hm : u.mem = t.mem) :
    StoresInside s u :=
  ⟨hp.trans h.params, hm ▸ h.mem⟩

/-- Storing inside M keeps its canonical form and its bound (20_memory.md R61, R62). -/
theorem State.MemorySound.of_storesInside {s t : State} (h : s.MemorySound) (hst : StoresInside s t) : t.MemorySound := by
  obtain ⟨a, vs, ha, hm⟩ := hst.mem
  constructor
  · rw [hm]
    exact Memory.wf_writeBytes h.canonical a vs
  · rw [hm, hst.params]
    exact Memory.below_writeBytes vs h.inside ha

/-! The ends of a command. -/

/-- The fault is UninitRead of an undefined byte inside M (20_memory.md R63). -/
def UndefinedRead (s : State) (f : Fault) : Prop := ∃ a, f = .uninitRead a ∧ a < s.params.memSize ∧ s.mem.read a = none

/-- What a command performed in s may have done with M and FAULT at each of its ends (40_control.md R121, 60_exceptions.md
R306). -/
def Execution.UsesMemory (s : State) : Execution → Prop
  | .ok t => StoresInside s t ∧ t.fault = s.fault
  | .err _ => True
  | .fault f => UndefinedRead s f

theorem usesMemory_of_mem_eq {s t : State} (hp : t.params = s.params) (hm : t.mem = s.mem) (hf : t.fault = s.fault) :
    (Execution.ok t).UsesMemory s :=
  ⟨storesInside_of_mem_eq hp hm, hf⟩

/-- Setting the result registers leaves M and FAULT alone. -/
theorem usesMemory_results {s t : State} (h : (Execution.ok t).UsesMemory s) (r0 r1 : Word) :
    (Execution.ok { t with res0 := r0, res1 := r1 }).UsesMemory s :=
  ⟨h.1.congr rfl rfl, h.2⟩

/-- A check that fails ends the command with its error code (60_exceptions.md R302). -/
theorem usesMemory_check {s : State} {c : Prop} [Decidable c] {code : ErrCode} {e : Execution}
    (h : ¬c → e.UsesMemory s) : (if c then .err code else e : Execution).UsesMemory s := by
  split
  · trivial
  · exact h ‹_›

/-! The shared operations of the commands: MemRead of the source, and WriteBits. -/

/-- A source inside M that cannot be read has an undefined byte inside M (20_memory.md R63, R66). -/
theorem undefinedRead_of_readBytes {s : State} {a n x : Nat} (ho : ¬s.outside a n) (h : s.mem.readBytes a n = .error x) :
    UndefinedRead s (.uninitRead x) := by
  obtain ⟨-, hx, hr⟩ := Memory.readBytes_error h
  exact ⟨x, rfl, by omega, hr⟩

/-- WriteBits stores the bytes from BS_BASE + BS_LEN div 8 up to the end of the longer stream (44_packer.md R201). -/
theorem State.writeBits_usesMemory {s t : State} {bs : List Bool} (ho : ¬s.streamOutside bs.length)
    (h : s.writeBits bs = .ok t) : (Execution.ok t).UsesMemory s := by
  obtain ⟨-, rfl⟩ | ⟨hb, old, -, rfl⟩ := State.writeBits_ok h
  · exact usesMemory_of_mem_eq rfl rfl rfl
  · have hend := streamBytes_end s.bsLen.toNat old hb
    exact ⟨⟨rfl, _, _, by omega, rfl⟩, rfl⟩

/-- The partial byte lies below the end of the longer stream (44_packer.md R201). -/
theorem State.writeBits_undefinedRead {s : State} {bs : List Bool} {a : Nat} (ho : ¬s.streamOutside bs.length)
    (h : s.writeBits bs = .error a) : UndefinedRead s (.uninitRead a) := by
  obtain ⟨hb, -, rfl, hr⟩ := State.writeBits_error h
  have hpos : 0 < bs.length := List.length_pos_iff.mpr hb
  have hend : s.bsLen.toNat / 8 < bytesFor (s.bsLen.toNat + bs.length) := by
    unfold bytesFor
    omega
  exact ⟨_, rfl, by omega, hr⟩

theorem padBits_length (p : Nat) : (padBits p).length = 8 * p := by
  simp [padBits, List.length_flatMap, Nat.mul_comm]

/-- BS_FINAL fills the capacity (44_packer.md R216). -/
theorem finalBits_length {len c : Nat} (h : len ≤ 8 * c) : len + (finalBits len c).length = 8 * c := by
  simp only [finalBits, List.length_append, bits_length, padBits_length, padCount, boundaryBits, terminatorBits]
  split <;> omega

/-- The bits BS_FINAL appends end where the capacity ends (44_packer.md R216). -/
theorem State.finalBits_inside {s : State} {c : Nat} (hlen : s.bsLen.toNat ≤ 8 * c) (ho : ¬s.outside s.bsBase.toNat c) :
    ¬s.streamOutside (finalBits s.bsLen.toNat c).length := by
  have hc : bytesFor (s.bsLen.toNat + (finalBits s.bsLen.toNat c).length) = c := by
    rw [finalBits_length hlen, bytesFor]
    omega
  rwa [State.streamOutside, hc]

/-! The commands. -/

theorem segPack_usesMemory (mode : Mode) (s : State) : (segPack mode s).UsesMemory s := by
  unfold segPack
  refine usesMemory_check fun _ => usesMemory_check fun ho => ?_
  split
  · exact undefinedRead_of_readBytes ho ‹_›
  split
  · trivial
  refine usesMemory_check fun _ => usesMemory_check fun hs => ?_
  split
  · exact State.writeBits_undefinedRead hs ‹_›
  · exact usesMemory_results (State.writeBits_usesMemory hs ‹_›) _ _

/-- Everything a command does with M and FAULT (40_control.md R121). -/
theorem exec_usesMemory (i : Instr) (s : State) : ∃ e, exec i s = finish s e ∧ e.UsesMemory s := by
  cases i
  case nop | gfExp | gfMul | bchFmt | bchVer | bsClear => exact ⟨.ok _, rfl, usesMemory_of_mem_eq rfl rfl rfl⟩
  all_goals refine ⟨_, rfl, ?_⟩
  case gfLog | rsGen | mxScore => exact usesMemory_check fun _ => usesMemory_of_mem_eq rfl rfl rfl
  case mxGet => exact usesMemory_check fun _ => usesMemory_check fun _ => usesMemory_of_mem_eq rfl rfl rfl
  case segNum | segAlnum | segByte | segKanji => exact segPack_usesMemory _ s
  case rsDiv =>
    refine usesMemory_check fun _ => usesMemory_check fun ho => ?_
    obtain ⟨hsrc, hdst⟩ := not_or.mp ho
    split
    · exact undefinedRead_of_readBytes hsrc ‹_›
    · exact ⟨⟨rfl, _, _, by rw [ecBytes_length]; omega, rfl⟩, rfl⟩
  case bsPut =>
    refine usesMemory_check fun _ => usesMemory_check fun hs => ?_
    rw [← bits_length s.argA s.argB] at hs
    split
    · exact State.writeBits_undefinedRead hs ‹_›
    · exact usesMemory_results (State.writeBits_usesMemory hs ‹_›) _ _
  case bsFinal =>
    refine usesMemory_check fun hlen => usesMemory_check fun ho => ?_
    have hs := State.finalBits_inside (Nat.not_lt.mp hlen) ho
    split
    · exact State.writeBits_undefinedRead hs ‹_›
    · exact usesMemory_results (State.writeBits_usesMemory hs ‹_›) _ _
  case mxBuild | mxMake =>
    refine usesMemory_check fun _ => usesMemory_check fun ho => ?_
    split
    · exact undefinedRead_of_readBytes ho ‹_›
    · exact usesMemory_check fun _ => usesMemory_of_mem_eq rfl rfl rfl

/-- In a clean state FAULT takes the fault, and nothing else changes (60_exceptions.md R306). -/
theorem State.recordFault_of_clean {s : State} (h : s.fault = none) (f : Fault) :
    s.recordFault f = { s with fault := some f } := by
  simp [State.recordFault, h]

/-- Settles O21: a command that succeeds or fails with an error code leaves FAULT none, and the fault it ends with otherwise
is an undefined read. -/
theorem commandFaultIsUninitRead : Obligations.CommandFaultIsUninitRead := by
  intro i s t f hf hexec ht
  obtain ⟨e, he, hm⟩ := exec_usesMemory i s
  rw [he] at hexec
  obtain ⟨u, rfl, rfl⟩ | ⟨c, -, rfl⟩ | ⟨g, rfl, rfl⟩ := finish_next_iff.mp hexec
  · have hnone : u.fault = none := hm.2.trans hf
    simp [hnone] at ht
  · simp [hf] at ht
  · rw [State.recordFault_of_clean hf] at ht ⊢
    obtain rfl : g = f := Option.some.inj ht
    obtain ⟨a, rfl, ha, hr⟩ := hm
    exact ⟨a, rfl, ha, hr, rfl⟩

end Sys2Proof.Machine
end

section
/-! PROOFS. Every step keeps M canonical and inside MEM_SIZE (20_memory.md R60, R61, R62). -/

namespace Sys2Proof.Machine

open Sys2Proof

theorem exec_storesInside {i : Instr} {s t : State} (h : exec i s = .next t) : StoresInside s t := by
  obtain ⟨e, he, hm⟩ := exec_usesMemory i s
  rw [he] at h
  obtain ⟨u, rfl, rfl⟩ | ⟨c, -, rfl⟩ | ⟨f, -, rfl⟩ := finish_next_iff.mp h
  · exact hm.1.congr rfl rfl
  · exact storesInside_of_mem_eq rfl rfl
  · exact storesInside_of_mem_eq rfl rfl

theorem hostAccess_storesInside (s : State) (a : HostAccess) : StoresInside s (s.hostAccess a) := by
  obtain ⟨w, h⟩ | ⟨r, w, h⟩ | ⟨x, b, hx, h⟩ | ⟨f, h⟩ := s.hostAccess_cases a <;> rw [h]
  · exact storesInside_of_mem_eq rfl rfl
  · cases r <;> exact storesInside_of_mem_eq rfl rfl
  · exact ⟨rfl, x, [b], hx, rfl⟩
  · exact storesInside_of_mem_eq rfl rfl

theorem programStep_storesInside (s : State) : StoresInside s s.programStep := by
  obtain ⟨-, h⟩ | ⟨a, rest, -, h⟩ | ⟨rest, -, h⟩ | ⟨rest, -, h⟩ := programStep_cases s <;> rw [h]
  · exact storesInside_of_mem_eq rfl rfl
  · obtain ⟨hp, hm⟩ := hostAccess_storesInside (s.withProgram rest) a
    exact ⟨hp, hm⟩
  · exact storesInside_of_mem_eq rfl rfl
  · split <;> exact storesInside_of_mem_eq rfl rfl

theorem engineTurn_storesInside {s t : State} (h : engineTurn s = .next t) : StoresInside s t := by
  obtain ⟨-, he⟩ | ⟨-, i, -, he⟩ | ⟨-, r, -, he⟩ := engineTurn_cases s <;> rw [he] at h
  · cases h
    exact storesInside_of_mem_eq rfl rfl
  · exact exec_storesInside h
  · cases h
    exact storesInside_of_mem_eq rfl rfl

/-- Everything a step can do to M: the reset input, or a run of bytes stored inside M. -/
theorem step_storesInside {s t : State} (h : step s = .next t) :
    ∃ rest, t = (s.withTurns rest).resetInput ∨ StoresInside (s.withTurns rest) t := by
  obtain ⟨rest, -, hs⟩ | ⟨f, -, hs⟩ | ⟨a, rest, -, -, hs⟩ | ⟨rest, -, -, hs⟩ | ⟨rest, -, -, hs⟩ := step_cases s <;>
    rw [hs] at h
  · cases h
    exact ⟨rest, .inl rfl⟩
  · cases h
  · cases h
    exact ⟨rest, .inr (hostAccess_storesInside _ a)⟩
  · cases h
    exact ⟨rest, .inr (programStep_storesInside _)⟩
  · exact ⟨rest, .inr (engineTurn_storesInside h)⟩

/-- After the reset input no byte is defined (70_reset_and_hazards.md R330). -/
theorem resetInput_memorySound (s : State) : s.resetInput.MemorySound := ⟨List.Pairwise.nil, nofun⟩

/-- Settles O57: the reset input empties M, and every other step stores a run of bytes inside it. -/
theorem stepKeepsMemorySound : Obligations.StepKeepsMemorySound := by
  intro s t h hstep
  obtain ⟨rest, rfl | hst⟩ := step_storesInside hstep
  · exact resetInput_memorySound _
  · have hturns : (s.withTurns rest).MemorySound := ⟨h.canonical, h.inside⟩
    exact hturns.of_storesInside hst

end Sys2Proof.Machine
end

section
/-! PROOFS. A command that reads its source region faults at the first undefined byte of it (20_memory.md R63,
60_exceptions.md R302). -/

namespace Sys2Proof.Machine

open Sys2Proof Sys2Proof.Claims

/-- readBytes fails at the first undefined byte of the region. -/
theorem Memory.readBytes_first_undefined {m : Memory} {a n d : Nat} (hd : d < n)
    (hdef : ∀ j, j < d → m.read (a + j) ≠ none) (hund : m.read (a + d) = none) : m.readBytes a n = .error (a + d) := by
  induction n generalizing a d with
  | zero => omega
  | succ n ih =>
    cases d with
    | zero => simp [Memory.readBytes, show m.read a = none from hund]
    | succ d =>
      obtain ⟨b, hb⟩ := Option.ne_none_iff_exists'.mp (hdef 0 (Nat.succ_pos d))
      have hrest : m.readBytes (a + 1) n = .error (a + 1 + d) := by
        refine ih (by omega) (fun j hj => ?_) ?_
        · rw [show a + 1 + j = a + (j + 1) by omega]
          exact hdef (j + 1) (by omega)
        · rw [show a + 1 + d = a + (d + 1) by omega]
          exact hund
      simp [Memory.readBytes, show m.read a = some b from hb, hrest, Nat.add_comm 1 d, Nat.add_assoc]

theorem segPack_source_undefined {mode : Mode} {s : State} {x : Nat} (hv : ¬s.versionIllegal)
    (ho : ¬s.outside s.argA s.argB) (h : s.mem.readBytes s.argA s.argB = .error x) :
    segPack mode s = .fault (.uninitRead x) := by
  simp only [segPack, if_neg hv, if_neg ho, h]

/-- A command that gets to reading its source ends with the fault of that read (60_exceptions.md R302). -/
theorem exec_source_undefined {i : Instr} {s : State} {x : Nat} (hi : readsItsSource i s)
    (ho : ¬s.outside s.argA s.argB) (h : s.mem.readBytes s.argA s.argB = .error x) :
    exec i s = .next (s.recordFault (.uninitRead x)) := by
  have hversion (hv : 1 ≤ s.version.toNat ∧ s.version.toNat ≤ 40) : ¬s.versionIllegal := by
    simp only [State.versionIllegal, State.v]
    omega
  cases i
  case rsDiv =>
    obtain ⟨hk, hdst⟩ := hi
    have hk0 : ¬s.genLen.toNat = 0 := fun h0 => hk (BitVec.eq_of_toNat_eq h0)
    have hregions : ¬(s.outside s.argA s.argB ∨ s.outside s.argC s.genLen.toNat) := not_or.mpr ⟨ho, Nat.not_lt.mpr hdst⟩
    simp only [exec, execRsDiv, if_neg hk0, if_neg hregions, h, finish_fault]
  case segNum | segAlnum | segByte | segKanji => exact congrArg (finish s) (segPack_source_undefined (hversion hi) ho h)
  case mxBuild => simp only [exec, execMxBuild, if_neg (hversion hi), if_neg ho, h, finish_fault]
  case mxMake => simp only [exec, execMxMake, if_neg (hversion hi), if_neg ho, h, finish_fault]
  all_goals exact hi.elim

/-- Settles O22: the read of the source fails at its first undefined byte, and the command ends with that fault. -/
theorem undefinedSourceByteFaults : Obligations.UndefinedSourceByteFaults := by
  intro i s d hf hi hin hd hdef hund
  rw [← State.recordFault_of_clean hf]
  exact exec_source_undefined hi (Nat.not_lt.mpr hin) (Memory.readBytes_first_undefined hd hdef hund)

end Sys2Proof.Machine
end

section
/-! PROOFS. Host accesses to the window of M (20_memory.md R64). -/

namespace Sys2Proof.Machine

open Sys2Proof

/-- A byte access at an offset of the window reaches the byte of M there (20_memory.md R64). -/
theorem hostTarget_window {p : Params} {a : Nat} (ha : a < p.memSize) : hostTarget p (0x10000 + a) 8 = .byte a := by
  simp [hostTarget, windowBase, ha]

theorem State.idleAccess_write_byte {s : State} {offset width a : Nat} {w : Word}
    (h : hostTarget s.params offset width = .byte a) :
    s.idleAccess (.write offset width w) = { s with mem := s.mem.write a (w.setWidth 8) } := by
  simp [State.idleAccess, h]

theorem State.idleAccess_read_byte {s : State} {offset width a : Nat} {b : Byte}
    (h : hostTarget s.params offset width = .byte a) (hb : s.mem.read a = some b) :
    s.idleAccess (.read offset width) = { s with lastRead := some (b.setWidth 32) } := by
  simp [State.idleAccess, h, hb]

theorem State.idleAccess_read_undefined {s : State} {offset width a : Nat}
    (h : hostTarget s.params offset width = .byte a) (hb : s.mem.read a = none) :
    s.idleAccess (.read offset width) = s.recordFault (.uninitRead a) := by
  simp [State.idleAccess, h, hb]

/-- Settles O14: a byte access reaches M[a], and an access of another width reaches nothing. -/
theorem windowAccess : Obligations.WindowAccess := by
  intro s rest a w hf hb ha
  have htarget : hostTarget (s.withTurns rest).params (0x10000 + a) 8 = .byte a := hostTarget_window ha
  refine ⟨fun hs => ?_, fun hs => ⟨fun x hx => ?_, fun hx => ?_⟩, fun width hw hs => ?_⟩
  · rw [step_host_idle hf hb hs, State.idleAccess_write_byte htarget, BitVec.setWidth_eq_extractLsb' (by decide)]
    exact ⟨_, rfl, rfl, s.mem.read_write_same a _, fun b hne => s.mem.read_write_other _ hne⟩
  · rw [step_host_idle hf hb hs, State.idleAccess_read_byte htarget hx]
    rfl
  · rw [step_host_idle hf hb hs, State.idleAccess_read_undefined htarget hx,
      State.recordFault_of_clean (s := s.withTurns rest) hf]
    rfl
  · have hbad : hostTarget s.params (0x10000 + a) width = .bad := hostTarget_bad_window (Nat.le_add_right _ a) (.inl hw)
    obtain hs | hs := hs <;> exact step_bad_access hf hb hs hbad

end Sys2Proof.Machine
end

section
/-! PROOFS. The opcode table (30_encoding.md R94): a word selects at most one row, and which row is told by its opcode. -/

namespace Sys2Proof

/-- The bits of the operand fields of a mnemonic's word, which all lie from bit 8 on (30_encoding.md R91). -/
def Mnemonic.operandBits (n : Mnemonic) : Nat := n.immediateWidths.sum

theorem OpcodeRow.selects_iff {r : OpcodeRow} {w : Word} : r.selects w = true ↔ w &&& r.mask = r.pattern := beq_iff_eq

/-- A row's mask fixes every bit but those of the operand fields: the opcode and the reserved bits (R93, R94). -/
theorem opcodeTable_mask : ∀ r ∈ opcodeTable, ∀ j < 32,
    r.mask.getLsbD j = true ↔ ¬(8 ≤ j ∧ j < 8 + r.mnemonic.operandBits) := by decide

theorem opcodeTable_mask_opc : ∀ r ∈ opcodeTable, opcOf r.mask = BitVec.allOnes 8 := by decide

theorem opcodeTable_opc_injective :
    ∀ r ∈ opcodeTable, ∀ r' ∈ opcodeTable, opcOf r.pattern = opcOf r'.pattern → r = r' := by decide

theorem opcodeTable_mnemonic_injective :
    ∀ r ∈ opcodeTable, ∀ r' ∈ opcodeTable, r.mnemonic = r'.mnemonic → r = r' := by decide

/-- A word that selects a row has the row's opcode. -/
theorem opcOf_of_selects {r : OpcodeRow} {w : Word} (hr : r ∈ opcodeTable) (h : r.selects w = true) :
    opcOf w = opcOf r.pattern := by
  calc opcOf w
    _ = opcOf w &&& opcOf r.mask := by rw [opcodeTable_mask_opc r hr, BitVec.and_allOnes]
    _ = opcOf (w &&& r.mask) := BitVec.extractLsb'_and.symm
    _ = opcOf r.pattern := by rw [OpcodeRow.selects_iff.mp h]

theorem selectedRow_unique {r r' : OpcodeRow} {w : Word} (hr : r ∈ opcodeTable) (hr' : r' ∈ opcodeTable)
    (h : r.selects w = true) (h' : r'.selects w = true) : r = r' :=
  opcodeTable_opc_injective r hr r' hr' ((opcOf_of_selects hr h).symm.trans (opcOf_of_selects hr' h'))

/-- Settles O3: both rows have the word's opcode, and no two rows share an opcode. -/
theorem noWordSelectsTwoRows : Obligations.NoWordSelectsTwoRows := fun _ _ hr _ hr' h h' =>
  selectedRow_unique hr hr' (OpcodeRow.selects_iff.mpr h) (OpcodeRow.selects_iff.mpr h')

/-! What decode answers (30_encoding.md R97). -/

theorem decode_of_selects {r : OpcodeRow} {w : Word} (hr : r ∈ opcodeTable) (h : r.selects w = true) :
    decode w = .ok (r.mnemonic.instrOf w) := by
  unfold decode
  cases hfind : opcodeTable.find? (fun x => x.selects w) with
  | none => exact absurd h (List.find?_eq_none.mp hfind r hr)
  | some r' =>
    have hsel : r'.selects w = true := List.find?_some (p := fun x : OpcodeRow => x.selects w) hfind
    rw [selectedRow_unique (List.mem_of_find?_eq_some hfind) hr hsel h]

theorem decode_of_not_selects {w : Word} (h : ∀ r ∈ opcodeTable, ¬r.selects w = true) :
    decode w = .error (rejectOf w) := by
  simp only [decode, List.find?_eq_none.mpr h]

theorem decode_ok {w : Word} {i : Instr} (h : decode w = .ok i) :
    ∃ r ∈ opcodeTable, r.selects w = true ∧ r.mnemonic.instrOf w = i := by
  by_cases hs : ∃ r ∈ opcodeTable, r.selects w = true
  · obtain ⟨r, hr, hw⟩ := hs
    exact ⟨r, hr, hw, Except.ok.inj ((decode_of_selects hr hw).symm.trans h)⟩
  · rw [decode_of_not_selects (fun r hr hw => hs ⟨r, hr, hw⟩)] at h
    cases h

end Sys2Proof
end

section
/-! PROOFS. The round trip of encode and decode (30_encoding.md R91, R97): the fields of a command's word are its operands,
and a word is determined by the bits its row fixes and by its fields. -/

namespace Sys2Proof

/-! The fields read back from the word of each format (R91). -/

/-- The middle part of a word of three parts. -/
theorem extractLsb'_append_middle {a n k : Nat} (hi : BitVec a) (x : BitVec n) (lo : BitVec k) :
    (hi ++ x ++ lo).extractLsb' k n = x := by
  rw [BitVec.extractLsb'_append_eq_of_le (Nat.le_refl k), Nat.sub_self,
    BitVec.extractLsb'_append_eq_of_add_le (by omega), BitVec.extractLsb'_eq_self]

@[simp] theorem fieldA_wordA (a opc : Byte) : fieldA (wordA a opc) = a := extractLsb'_append_middle _ a opc

@[simp] theorem fieldA_wordAB (a b opc : Byte) : fieldA (wordAB a b opc) = a := extractLsb'_append_middle _ a opc

@[simp] theorem fieldB_wordAB (a b opc : Byte) : fieldB (wordAB a b opc) = b :=
  (BitVec.extractLsb'_append_eq_of_le (by decide)).trans (extractLsb'_append_middle _ b a)

@[simp] theorem fieldM_wordF (e : BitVec 2) (m : BitVec 3) (opc : Byte) : fieldM (wordF e m opc) = m :=
  extractLsb'_append_middle _ m opc

@[simp] theorem fieldE_wordF (e : BitVec 2) (m : BitVec 3) (opc : Byte) : fieldE (wordF e m opc) = e :=
  (BitVec.extractLsb'_append_eq_of_le (by decide)).trans (extractLsb'_append_middle _ e m)

@[simp] theorem fieldV_wordV (v : BitVec 6) (opc : Byte) : fieldV (wordV v opc) = v := extractLsb'_append_middle _ v opc

@[simp] theorem fieldM_wordX (m : BitVec 3) (t : BitVec 1) (opc : Byte) : fieldM (wordX m t opc) = m :=
  extractLsb'_append_middle _ m opc

@[simp] theorem fieldT_wordX (m : BitVec 3) (t : BitVec 1) (opc : Byte) : fieldT (wordX m t opc) = t :=
  (BitVec.extractLsb'_append_eq_of_le (by decide)).trans (extractLsb'_append_middle _ t m)

/-- The command read from the fields of a command's own word is that command. -/
@[simp] theorem instrOf_encode (i : Instr) : i.mnemonic.instrOf (encode i) = i := by
  cases i <;> simp [Instr.mnemonic, Mnemonic.instrOf, encode]

/-- Every command's word selects a row of its mnemonic: the laws of Laws/PerInstr.lean together. -/
theorem encode_selects_row (i : Instr) : Laws.SelectsOwnRow.Statement i :=
  match i with
  | .nop => Laws.SelectsOwnRow.nop
  | .gfExp a => Laws.SelectsOwnRow.gfExp a
  | .gfLog a => Laws.SelectsOwnRow.gfLog a
  | .gfMul a b => Laws.SelectsOwnRow.gfMul a b
  | .rsGen k => Laws.SelectsOwnRow.rsGen k
  | .rsDiv => Laws.SelectsOwnRow.rsDiv
  | .bchFmt e m => Laws.SelectsOwnRow.bchFmt e m
  | .bchVer v => Laws.SelectsOwnRow.bchVer v
  | .bsClear => Laws.SelectsOwnRow.bsClear
  | .bsPut => Laws.SelectsOwnRow.bsPut
  | .segNum => Laws.SelectsOwnRow.segNum
  | .segAlnum => Laws.SelectsOwnRow.segAlnum
  | .segByte => Laws.SelectsOwnRow.segByte
  | .segKanji => Laws.SelectsOwnRow.segKanji
  | .bsFinal => Laws.SelectsOwnRow.bsFinal
  | .mxBuild m t => Laws.SelectsOwnRow.mxBuild m t
  | .mxScore => Laws.SelectsOwnRow.mxScore
  | .mxMake => Laws.SelectsOwnRow.mxMake
  | .mxGet => Laws.SelectsOwnRow.mxGet

/-- Settles O1: the command's word selects the row of its mnemonic, and its fields read back as the operands. -/
theorem decodeOfEncode : Obligations.DecodeOfEncode := by
  intro i
  obtain ⟨r, hr, hmnemonic, hsel⟩ := encode_selects_row i
  rw [decode_of_selects hr hsel, hmnemonic, instrOf_encode]

/-! A word is determined by what its row fixes and by its fields. -/

theorem getLsbD_eq_of_extractLsb'_eq {w w' : Word} {start len j : Nat}
    (h : w.extractLsb' start len = w'.extractLsb' start len) (hlo : start ≤ j) (hhi : j < start + len) :
    w.getLsbD j = w'.getLsbD j := by
  have hbit := congrArg (fun x => BitVec.getLsbD x (j - start)) h
  simpa [BitVec.getLsbD_extractLsb', Nat.add_sub_cancel' hlo, show j - start < len by omega] using hbit

/-- Two adjacent fields that agree make a longer field that agrees. -/
theorem extractLsb'_eq_of_adjacent {w w' : Word} {start n k : Nat}
    (hlo : w.extractLsb' start n = w'.extractLsb' start n)
    (hhi : w.extractLsb' (start + n) k = w'.extractLsb' (start + n) k) :
    w.extractLsb' start (k + n) = w'.extractLsb' start (k + n) := by
  rw [← BitVec.extractLsb'_append_extractLsb'_eq_extractLsb' rfl, hlo, hhi,
    BitVec.extractLsb'_append_extractLsb'_eq_extractLsb' rfl]

/-- The command read from a word's fields tells all of its operand bits (R91). -/
theorem operandBits_eq_of_instrOf_eq {n : Mnemonic} {w w' : Word} (h : n.instrOf w = n.instrOf w') :
    w.extractLsb' 8 n.operandBits = w'.extractLsb' 8 n.operandBits := by
  cases n
  case gfExp => exact Instr.gfExp.inj h
  case gfLog => exact Instr.gfLog.inj h
  case rsGen => exact Instr.rsGen.inj h
  case bchVer => exact Instr.bchVer.inj h
  case gfMul =>
    obtain ⟨ha, hb⟩ := Instr.gfMul.inj h
    exact extractLsb'_eq_of_adjacent ha hb
  case bchFmt =>
    obtain ⟨he, hm⟩ := Instr.bchFmt.inj h
    exact extractLsb'_eq_of_adjacent hm he
  case mxBuild =>
    obtain ⟨hm, ht⟩ := Instr.mxBuild.inj h
    exact extractLsb'_eq_of_adjacent (n := 3) (k := 1) hm ht
  all_goals exact (BitVec.eq_nil _).trans (BitVec.eq_nil _).symm

/-- Two words of one row with the same fields are the same word: the row fixes every other bit (R93). -/
theorem word_unique {r : OpcodeRow} {w w' : Word} (hr : r ∈ opcodeTable) (h : r.selects w = true)
    (h' : r.selects w' = true) (hfields : r.mnemonic.instrOf w = r.mnemonic.instrOf w') : w = w' := by
  apply BitVec.eq_of_getLsbD_eq
  intro j hj
  by_cases hop : 8 ≤ j ∧ j < 8 + r.mnemonic.operandBits
  · exact getLsbD_eq_of_extractLsb'_eq (operandBits_eq_of_instrOf_eq hfields) hop.1 hop.2
  · have hmask : r.mask.getLsbD j = true := (opcodeTable_mask r hr j hj).mpr hop
    have hmasked : w &&& r.mask = w' &&& r.mask :=
      (OpcodeRow.selects_iff.mp h).trans (OpcodeRow.selects_iff.mp h').symm
    simpa [hmask] using congrArg (fun x => BitVec.getLsbD x j) hmasked

@[simp] theorem instrOf_mnemonic (n : Mnemonic) (w : Word) : (n.instrOf w).mnemonic = n := by
  cases n <;> rfl

/-- Settles O2: the word and the word of the command it decodes to select the same row and have the same fields. -/
theorem encodeOfDecode : Obligations.EncodeOfDecode := by
  intro w i h
  obtain ⟨r, hr, hsel, rfl⟩ := decode_ok h
  obtain ⟨r', hr', hmnemonic, hsel'⟩ := encode_selects_row (r.mnemonic.instrOf w)
  rw [instrOf_mnemonic] at hmnemonic
  obtain rfl := opcodeTable_mnemonic_injective r' hr' r hr hmnemonic
  have hfields := instrOf_encode (r'.mnemonic.instrOf w)
  rw [instrOf_mnemonic] at hfields
  exact word_unique hr hsel' hsel hfields

end Sys2Proof
end

section
/-! PROOFS. A pending word that is no command (30_encoding.md R93, R96). -/

namespace Sys2Proof.Machine

open Sys2Proof Sys2Proof.Claims

/-- The engine's turn on a word that selects no row is the completion with ILLEGAL_COMMAND (40_control.md R123). -/
theorem step_illegal {s : State} {rest : List Turn} (hf : s.fault = none) (hb : s.busy = true)
    (hs : s.schedule = .engine :: rest) (h : ∀ r ∈ opcodeTable, ¬r.selects s.pending = true) :
    step s = .next (ended .illegalCommand { s with schedule := rest }) := by
  have hdecode : decode (s.withTurns rest).pending = .error (rejectOf s.pending) := decode_of_not_selects h
  have hbusy : (s.withTurns rest).busy = true := hb
  rw [step, takeTurn_engine hf hs, engineTurn, if_pos hbusy, engineStep, hdecode]
  rfl

/-- Settles O5: the only row with the word's opcode is not selected, so no row is. -/
theorem reservedBitIsIllegal : Obligations.ReservedBitIsIllegal := by
  intro s rest r hr hf hb hs hopc hne
  refine step_illegal hf hb hs fun r' hr' hsel => hne ?_
  have hrow : r' = r := opcodeTable_opc_injective r' hr' r hr ((opcOf_of_selects hr' hsel).symm.trans hopc)
  exact OpcodeRow.selects_iff.mp (hrow ▸ hsel)

/-- The opcodes of the map are the values R96 leaves out. -/
theorem opcodeTable_opc_assigned : ∀ r ∈ opcodeTable,
    (opcOf r.pattern).toNat ∈ [0x00, 0x10, 0x11, 0x12, 0x20, 0x21, 0x30, 0x31, 0x40, 0x41, 0x42, 0x43, 0x44, 0x45, 0x46,
      0x50, 0x51, 0x52, 0x53] := by decide

/-- Settles O6: a selected row would give the word an opcode of the map. -/
theorem unassignedOpcodeIsIllegal : Obligations.UnassignedOpcodeIsIllegal := by
  intro s rest opc hf hb hs hopc hrange
  refine step_illegal hf hb hs fun r hr hsel => ?_
  have hassigned := opcodeTable_opc_assigned r hr
  rw [← opcOf_of_selects hr hsel, opcOf, hopc] at hassigned
  simp only [List.mem_cons, List.not_mem_nil, or_false] at hassigned
  omega

end Sys2Proof.Machine
end

section
/-! PROOFS. The host program: what each of its steps does and what the host operations expand to (30_encoding.md R99). -/

namespace Sys2Proof.Machine

open Sys2Proof Sys2Proof.Claims

/-! The steps of a program. -/

/-- The program's turn, scheduled or on an empty schedule while BUSY = 0 (log entry 1). -/
theorem step_program {s : State} {rest : List Turn} (hf : s.fault = none)
    (hs : s.schedule = .program :: rest ∨ (s.schedule = [] ∧ rest = [] ∧ s.busy = false)) :
    step s = .next (s.withTurns rest).programStep := by
  obtain hs | ⟨hs, rfl, hb⟩ := hs
  · exact takeTurn_program hf hs
  · rw [show s.withTurns [] = s by rw [← hs]; rfl]
    exact takeTurn_nil_idle hf hs hb

theorem programStep_nil {s : State} (h : s.program = []) : s.programStep = s := by
  simp only [State.programStep, h]

theorem programStep_access {s : State} {a : HostAccess} {p : List HostStep} (h : s.program = .access a :: p) :
    s.programStep = (s.withProgram p).hostAccess a := by
  simp only [State.programStep, h]

theorem programStep_wait {s : State} {p : List HostStep} (h : s.program = .wait :: p) :
    s.programStep = { s with lastRead := some s.status, program := if s.busy then .wait :: p else p } := by
  obtain ⟨h', -⟩ | ⟨a, q, h', -⟩ | ⟨q, h', hstep⟩ | ⟨q, h', -⟩ := programStep_cases s <;> cases h.symm.trans h'
  exact hstep

theorem programStep_check {s : State} {p : List HostStep} (h : s.program = .check :: p) :
    s.programStep = { s with
      lastRead := some s.status
      program := if s.err = .none then p else []
      programError := if s.err = .none then s.programError else some s.err.code } := by
  obtain ⟨h', -⟩ | ⟨a, q, h', -⟩ | ⟨q, h', -⟩ | ⟨q, h', hstep⟩ := programStep_cases s <;> cases h.symm.trans h'
  rw [hstep]
  cases s.err <;> rfl

/-! The steps of an operation. -/

theorem wrb_steps_getElem? (a : Nat) {bs : List Byte} {k : Nat} (h : k < bs.length) :
    (HostOp.wrb a bs).steps[k]? = some (.access (.write (0x10000 + a + k) 8 (bs[k].setWidth 32))) := by
  simp [HostOp.steps, windowBase, h]

theorem rdb_steps_getElem? (a : Nat) {n k : Nat} (h : k < n) :
    (HostOp.rdb a n).steps[k]? = some (.access (.read (0x10000 + a + k) 8)) := by
  simp [HostOp.steps, windowBase, h]

/-- A command reads the first of the ARG registers (30_encoding.md R95). -/
theorem argRegs_eq_take (i : Instr) : argRegs i = [.arg0, .arg1, .arg2].take (argCount i) := by
  cases i <;> rfl

@[simp] theorem argRegs_length (i : Instr) : (argRegs i).length = argCount i := by
  cases i <;> rfl

/-- ARG0, ARG1, ARG2 stand one after the other in the register map (10_state.md R22). -/
theorem argRegs_offset (i : Instr) {j : Nat} (h : j < (argRegs i).length) : (argRegs i)[j].offset = 0x008 + 4 * j := by
  have hoffset : ∀ k, (hk : k < 3) → ([.arg0, .arg1, .arg2] : List HostReg)[k].offset = 0x008 + 4 * k := by decide
  simp only [argRegs_eq_take, List.getElem_take]
  exact hoffset j (by simp [argRegs_eq_take] at h; omega)

/-- A command writes its operands to the ARG registers in order, as far as operands are given, then CMD (R95, R99). -/
theorem command_steps (i : Instr) (args : List Word) :
    (HostOp.command i args).steps =
      ((args.take (argCount i)).zipIdx.map fun p => HostStep.access (.write (0x008 + 4 * p.2) 32 p.1)) ++
        [.access (.write 0x000 32 (encode i)), .wait] := by
  have hargs : ((argRegs i).zip args).map (fun p => writeStep p.1 p.2) =
      (args.take (argCount i)).zipIdx.map fun p => HostStep.access (.write (0x008 + 4 * p.2) 32 p.1) := by
    refine List.ext_getElem (by simp) fun j hj hj' => ?_
    simp [writeStep, argRegs_offset]
  rw [HostOp.steps, hargs]
  rfl

/-- Settles O37: a lemma per kind of step, and one per operation. -/
theorem hostProgramSteps : Obligations.HostProgramSteps := by
  refine ⟨fun s rest p hf hs => ⟨fun a h => ?_, fun h => ?_, fun h => ?_, fun h => ?_⟩, fun r v => ⟨rfl, rfl⟩,
    fun a bs => ⟨by simp [HostOp.steps], fun k h => wrb_steps_getElem? a h⟩,
    fun a n => ⟨by simp [HostOp.steps], fun k h => rdb_steps_getElem? a h⟩, rfl, rfl, command_steps,
    fun src d dst => rfl, rfl, rfl, fun s ops => rfl⟩
  · rw [step_program hf hs, programStep_access (s := s.withTurns rest) h]
    exact (takeTurn_host (s := { s with schedule := .host a :: rest, program := p }) hf rfl).symm
  · rw [step_program hf hs, programStep_wait (s := s.withTurns rest) h]
    rfl
  · rw [step_program hf hs, programStep_check (s := s.withTurns rest) h]
    rfl
  · rw [step_program hf hs, programStep_nil (s := s.withTurns rest) h]
    rfl

end Sys2Proof.Machine
end

section
/-! PROOFS. The control unit: the engine's turn, command issue and the completion of a command (40_control.md R120 to R124). -/

namespace Sys2Proof.Machine

open Sys2Proof Sys2Proof.Claims

/-! How a command ends. -/

/-- Settles O20: a success keeps FAULT none and leaves PENDING, from which LAST_OPC is taken, as it was; an error code
completes the old state; a model fault is recorded in it. -/
theorem everyCommandEnds : Obligations.EveryCommandEnds := by
  intro i s hf
  obtain ⟨e, he, hm⟩ := exec_usesMemory i s
  cases e with
  | ok t =>
    obtain ⟨-, hpending, -⟩ := commandsKeepHostRegisters i s _ he
    obtain ⟨-, hfault⟩ := hm
    exact ⟨t.complete .none, he, .inl ⟨hfault.trans hf, rfl, congrArg opcOf hpending⟩⟩
  | err c => exact ⟨s.complete c, he, .inl ⟨hf, rfl, rfl⟩⟩
  | fault f => exact ⟨s.recordFault f, he, .inr ⟨f, State.recordFault_of_clean hf f⟩⟩

/-- Settles O26: both commands always succeed, and their completion is the one R121 lists. -/
theorem nopAndBsClearResults : Obligations.NopAndBsClearResults := fun s =>
  ⟨finish_ok s s, finish_ok s { s with bsLen := 0 }⟩

/-! The engine's turn. -/

/-- While BUSY = 1 the engine performs the command that PENDING decodes to (R121, R123). -/
theorem engineTurn_of_decode {s : State} {i : Instr} (hb : s.busy = true) (hd : decode s.pending = .ok i) :
    engineTurn s = exec i s := by
  simp only [engineTurn, hb, if_true, engineStep, hd]

/-- While BUSY = 0 the engine is idle (60_exceptions.md R314). -/
theorem engineTurn_idle {s : State} (hb : s.busy = false) : engineTurn s = .next s := by
  simp [engineTurn, hb]

/-- Settles O7: the engine's turn at each place it can have it, and the turn of a host program with no steps. -/
theorem stepPerformsPendingCommand : Obligations.StepPerformsPendingCommand := by
  refine fun s i hf hd => ⟨fun hb => ⟨fun hs => ?_, fun rest hs => ?_⟩, fun hb => ⟨fun hs hp => ?_, fun rest hs => ?_⟩⟩
  · exact (takeTurn_nil_busy hf hs hb).trans (engineTurn_of_decode hb hd)
  · exact (takeTurn_engine hf hs).trans (engineTurn_of_decode (s := s.withTurns rest) hb hd)
  · rw [step, takeTurn_nil_idle hf hs hb, programStep_nil hp]
  · exact (takeTurn_engine hf hs).trans (engineTurn_idle (s := s.withTurns rest) hb)

/-! The command word put in place by the model's hook (log entry 8). -/

/-- All 32 bits of a command word are placed. -/
theorem State.withFetchWord_encode (s : State) (i : Instr) :
    s.withFetchWord 32 (encode i).toNat = s.loadCommand (encode i) := by
  rw [State.withFetchWord, Nat.mod_eq_of_lt (encode i).isLt, BitVec.ofNat_toNat, BitVec.setWidth_eq]

/-- Settles O8: the engine has the first turn, with the word pending, and the word decodes to its command. -/
theorem fetchWordRunsTheCommand : Obligations.FetchWordRunsTheCommand := by
  intro s i
  rw [State.withFetchWord_encode, step, takeTurn_engine (s := s.loadCommand (encode i)) rfl rfl]
  exact engineTurn_of_decode rfl (decodeOfEncode i)

/-! Command issue. -/

/-- The registers without a number lie below the window in every instance, legal or not (10_state.md R22). -/
theorem hostTarget_singleReg (p : Params) {r : HostReg} (hr : r ∈ singleRegs) :
    hostTarget p r.offset 32 = .register r := by
  have hlow : ¬windowBase ≤ r.offset := by
    have := singleRegs_offset r hr
    simp only [windowBase]; omega
  have hmem : r ∈ hostRegs p.ecMax := mem_hostRegs.mpr (.inl hr)
  simp [hostTarget, hlow, hostRegs_find hmem]

/-- Settles O9: the write reaches CMD, and a write of CMD is the command issue. -/
theorem commandIssue : Obligations.CommandIssue := by
  intro s w rest hf hb hs
  have hcmd : hostTarget (s.withTurns rest).params 0x000 32 = .register .cmd :=
    hostTarget_singleReg _ (r := .cmd) (by decide)
  rw [step_host_idle hf hb hs, State.idleAccess_write_register hcmd]
  rfl

/-! The words of the rules' examples. -/

theorem decode_of_encode_eq {i : Instr} {w : Word} (h : encode i = w) : decode w = .ok i := h ▸ decodeOfEncode i

/-- Settles O4: each word is the one its command encodes to. -/
theorem exampleWordsDecode : Obligations.ExampleWordsDecode :=
  ⟨decode_of_encode_eq rfl, decode_of_encode_eq rfl, decode_of_encode_eq rfl, decode_of_encode_eq rfl,
    decode_of_encode_eq rfl, decode_of_encode_eq rfl, decode_of_encode_eq rfl, decode_of_encode_eq rfl,
    decode_of_encode_eq rfl, decode_of_encode_eq rfl, decode_of_encode_eq rfl, decode_of_encode_eq rfl⟩

end Sys2Proof.Machine
end

section
/-! PROOFS. The field GF(256) (41_gf.md R140 to R148). A nonzero byte is a power of α, and on powers the product of R142 adds
exponents. Doubling respects XOR, so the product does in each operand, and it is the product of polynomials because the two
agree on the bytes with a single bit. -/

namespace Sys2Proof.Machine

open Sys2Proof Sys2Proof.Claims

/-! The powers of α, and the ROMs as tables of them. -/

theorem alphaPow_add (m n : Nat) : alphaPow (m + n) = timesAlpha^[m] (alphaPow n) := by
  induction m with
  | zero => rw [Nat.zero_add, Function.iterate_zero_apply]
  | succ m ih => rw [Nat.succ_add, Function.iterate_succ_apply', ← ih]; rfl

/-- The recurrence of EXP is doubling in the field (41_gf.md R140). -/
theorem expRom_succ {n : Nat} (h : n < 255) : expRom (n + 1) = timesAlpha (expRom n) := by
  obtain ⟨-, hrec⟩ := expRom_recurrence
  calc expRom (n + 1)
      = .ofNat 8 (expRom (n + 1)).toNat := by simp
    _ = timesAlpha (expRom n) := congrArg (BitVec.ofNat 8) (hrec ⟨n, h⟩)

theorem expRom_eq_alphaPow {n : Nat} (h : n ≤ 255) : expRom n = alphaPow n := by
  induction n with
  | zero => exact expRom_recurrence.1
  | succ n ih => rw [expRom_succ h, ih (Nat.le_of_succ_le h), alphaPow]

@[simp] theorem alphaPow_255 : alphaPow 255 = 1 := by
  rw [← expRom_eq_alphaPow (Nat.le_refl 255), expRom_255, expRom_eq_alphaPow (Nat.zero_le 255), alphaPow]

theorem alphaPow_periodic : Function.Periodic alphaPow 255 := fun n => by
  rw [alphaPow_add, alphaPow_255, ← alphaPow, ← alphaPow_add, Nat.add_zero]

theorem alphaPow_mod (n : Nat) : alphaPow (n % 255) = alphaPow n := alphaPow_periodic.map_mod_nat n

/-- gexp is defined for every exponent and is the power of α (41_gf.md R143). -/
theorem gexp_eq_alphaPow (n : Nat) : gexp n = alphaPow n := by
  rw [gexp, expRom_eq_alphaPow (by omega), alphaPow_mod]

theorem logRom_lt {a : Byte} (h : a ≠ 0) : logRom a < 255 := (expRom_logRom a h).2

theorem alphaPow_logRom {a : Byte} (h : a ≠ 0) : alphaPow (logRom a) = a := by
  rw [← expRom_eq_alphaPow (Nat.le_of_lt (logRom_lt h)), (expRom_logRom a h).1]

/-- The logarithm of a power is the exponent reduced by the order of α (41_gf.md R141). -/
theorem logRom_alphaPow (n : Nat) : logRom (alphaPow n) = n % 255 := by
  have hlt : n % 255 < 255 := Nat.mod_lt n (by decide)
  rw [← alphaPow_mod, ← expRom_eq_alphaPow (Nat.le_of_lt hlt), logRom_expRom ⟨n % 255, hlt⟩]

theorem alphaPow_ne_zero (n : Nat) : alphaPow n ≠ 0 := by
  intro h
  have hmod : n % 255 = 0 := by rw [← logRom_alphaPow, h]; rfl
  rw [← alphaPow_mod, hmod] at h
  exact absurd h (by decide)

/-- Every byte is 0 or a power of α. -/
theorem byte_eq_zero_or_alphaPow (a : Byte) : a = 0 ∨ ∃ n, a = alphaPow n := by
  by_cases h : a = 0
  · exact .inl h
  · exact .inr ⟨logRom a, (alphaPow_logRom h).symm⟩

/-! The product on powers of α. -/

theorem gfMul_comm (a b : Byte) : gfMul a b = gfMul b a := by
  simp only [gfMul, or_comm, Nat.add_comm]

/-- On powers of α the product adds exponents (41_gf.md R142). -/
theorem gfMul_alphaPow (m n : Nat) : gfMul (alphaPow m) (alphaPow n) = alphaPow (m + n) := by
  have hne : ¬(alphaPow m = 0 ∨ alphaPow n = 0) := not_or.mpr ⟨alphaPow_ne_zero m, alphaPow_ne_zero n⟩
  rw [gfMul, if_neg hne, gexp_eq_alphaPow, logRom_alphaPow, logRom_alphaPow, ← alphaPow_mod, ← Nat.add_mod, alphaPow_mod]

theorem gfMul_assoc (a b c : Byte) : gfMul (gfMul a b) c = gfMul a (gfMul b c) := by
  obtain rfl | ⟨l, rfl⟩ := byte_eq_zero_or_alphaPow a
  · simp only [gfMul_zero_left]
  obtain rfl | ⟨m, rfl⟩ := byte_eq_zero_or_alphaPow b
  · simp only [gfMul_zero_left, gfMul_zero_right]
  obtain rfl | ⟨n, rfl⟩ := byte_eq_zero_or_alphaPow c
  · simp only [gfMul_zero_right]
  · simp only [gfMul_alphaPow, Nat.add_assoc]

theorem gfMul_one_left (a : Byte) : gfMul 1 a = a := by
  obtain rfl | ⟨n, rfl⟩ := byte_eq_zero_or_alphaPow a
  · exact gfMul_zero_right 1
  · simpa [alphaPow] using gfMul_alphaPow 0 n

/-- The inverse of a nonzero byte has the opposite exponent (41_gf.md R148). -/
theorem gfMul_inverse {a : Byte} (h : a ≠ 0) : gfMul a (gexp (255 - logRom a)) = 1 := by
  calc gfMul a (gexp (255 - logRom a))
      = gfMul (alphaPow (logRom a)) (alphaPow (255 - logRom a)) := by rw [alphaPow_logRom h, gexp_eq_alphaPow]
    _ = alphaPow 255 := by rw [gfMul_alphaPow, Nat.add_sub_cancel' (Nat.le_of_lt (logRom_lt h))]
    _ = 1 := alphaPow_255

/-! Maps of bytes that respect XOR. -/

/-- f is linear over GF(2). -/
def XorLinear (f : Byte → Byte) : Prop := ∀ x y, f (x ^^^ y) = f x ^^^ f y

theorem XorLinear.map_zero {f : Byte → Byte} (hf : XorLinear f) : f 0 = 0 := by
  simpa using hf 0 0

theorem XorLinear.iterate {f : Byte → Byte} (hf : XorLinear f) (n : Nat) : XorLinear f^[n] := by
  induction n with
  | zero => exact fun _ _ => rfl
  | succ n ih => exact fun x y => by simp only [Function.iterate_succ_apply', ih x y, hf _ _]

/-- A byte is built from 0 by XOR with single bits. -/
theorem byte_xor_induction {P : Byte → Prop} (h0 : P 0)
    (hbit : ∀ x i, i < 8 → P x → P (x ^^^ BitVec.twoPow 8 i)) (x : Byte) : P x := by
  have hlow : ∀ n ≤ 8, P ((x.setWidth n).setWidth 8) := by
    intro n hn
    induction n with
    | zero => simpa [BitVec.eq_nil (x.setWidth 0)] using h0
    | succ n ih =>
      cases hx : x.getLsbD n with
      | false => simpa only [BitVec.setWidth_setWidth_succ_eq_setWidth_setWidth_of_getLsbD_false hx] using ih (by omega)
      | true =>
        have hxor : (x.setWidth (n + 1)).setWidth 8 = (x.setWidth n).setWidth 8 ^^^ BitVec.twoPow 8 n := by
          rw [BitVec.setWidth_setWidth_succ_eq_setWidth_setWidth_or_twoPow_of_getLsbD_true hx]
          ext j hj
          by_cases hjn : j = n <;> simp [hjn]
        exact hxor ▸ hbit _ n hn (ih (by omega))
  simpa using hlow 8 (Nat.le_refl 8)

/-- Linear maps that agree on the single bits are equal. -/
theorem XorLinear.ext {f g : Byte → Byte} (hf : XorLinear f) (hg : XorLinear g)
    (h : ∀ i < 8, f (BitVec.twoPow 8 i) = g (BitVec.twoPow 8 i)) (x : Byte) : f x = g x := by
  induction x using byte_xor_induction with
  | h0 => rw [hf.map_zero, hg.map_zero]
  | hbit x i hi ih => rw [hf, hg, ih, h i hi]

/-! The product distributes over XOR. -/

/-- Taking a multiple of a polynomial off, told by one bit of the dividend, respects XOR. -/
theorem xor_if_testBit (k c x y : Nat) :
    (if (x ^^^ y).testBit k then (x ^^^ y) ^^^ c else x ^^^ y) =
      (if x.testBit k then x ^^^ c else x) ^^^ (if y.testBit k then y ^^^ c else y) := by
  rw [Nat.testBit_xor]
  cases x.testBit k <;> cases y.testBit k <;> simp [Nat.xor_left_comm, Nat.xor_comm]

theorem timesAlpha_xorLinear : XorLinear timesAlpha := by
  intro x y
  have hdouble : 2 * (x ^^^ y).toNat = 2 * x.toNat ^^^ 2 * y.toNat := by
    simpa [Nat.shiftLeft_eq, Nat.mul_comm] using Nat.shiftLeft_xor_distrib (i := 1) (a := x.toNat) (b := y.toNat)
  rw [timesAlpha, hdouble, xor_if_testBit, BitVec.ofNat_xor]
  rfl

/-- The product with the m-th power of α doubles m times. -/
theorem gfMul_alphaPow_left (m : Nat) (b : Byte) : gfMul (alphaPow m) b = timesAlpha^[m] b := by
  obtain rfl | ⟨n, rfl⟩ := byte_eq_zero_or_alphaPow b
  · rw [gfMul_zero_right, (timesAlpha_xorLinear.iterate m).map_zero]
  · rw [gfMul_alphaPow, alphaPow_add]

theorem gfMul_xorLinear_right (a : Byte) : XorLinear (gfMul a) := by
  obtain rfl | ⟨m, rfl⟩ := byte_eq_zero_or_alphaPow a
  · intro b c
    simp only [gfMul_zero_left]
    rfl
  · rw [funext (gfMul_alphaPow_left m)]
    exact timesAlpha_xorLinear.iterate m

theorem gfMul_xorLinear_left (b : Byte) : XorLinear (gfMul · b) := by
  intro x y
  simpa only [gfMul_comm _ b] using gfMul_xorLinear_right b x y

/-! The product of polynomials (41_gf.md R142). -/

theorem reduced_xor (x y : Nat) : reduced (x ^^^ y) = reduced x ^^^ reduced y :=
  List.foldl_hom₂ _ (· ^^^ ·) _ _ _ x y fun x y j => (xor_if_testBit (14 - j) (0x11D <<< (6 - j)) x y).symm

theorem carryless_xor_left (a a' b : Nat) : carryless (a ^^^ a') b = carryless a b ^^^ carryless a' b := by
  refine List.foldl_hom₂ _ (· ^^^ ·) _ _ _ 0 0 fun x y i => ?_
  cases b.testBit i <;> simp [Nat.shiftLeft_xor_distrib, Nat.xor_assoc, Nat.xor_left_comm]

theorem carryless_xor_right (a b b' : Nat) : carryless a (b ^^^ b') = carryless a b ^^^ carryless a b' := by
  refine List.foldl_hom₂ _ (· ^^^ ·) _ _ _ 0 0 fun x y i => ?_
  rw [Nat.testBit_xor]
  cases b.testBit i <;> cases b'.testBit i <;> simp [Nat.xor_left_comm, Nat.xor_comm]

theorem fieldProduct_xorLinear_left (b : Byte) : XorLinear (fieldProduct · b) := by
  intro x y
  simp only [fieldProduct, BitVec.toNat_xor, carryless_xor_left, reduced_xor, BitVec.ofNat_xor]

theorem fieldProduct_xorLinear_right (a : Byte) : XorLinear (fieldProduct a) := by
  intro x y
  simp only [fieldProduct, BitVec.toNat_xor, carryless_xor_right, reduced_xor, BitVec.ofNat_xor]

theorem fieldProduct_twoPow : ∀ i < 8, ∀ j < 8,
    fieldProduct (BitVec.twoPow 8 i) (BitVec.twoPow 8 j) = gfMul (BitVec.twoPow 8 i) (BitVec.twoPow 8 j) := by decide

/-- The product of logs is the product of polynomials: both are linear in each operand and agree on single bits. -/
theorem fieldProduct_eq_gfMul (a b : Byte) : fieldProduct a b = gfMul a b := by
  refine (fieldProduct_xorLinear_right a).ext (gfMul_xorLinear_right a) (fun j hj => ?_) b
  refine (fieldProduct_xorLinear_left _).ext (gfMul_xorLinear_left _) (fun i hi => ?_) a
  exact fieldProduct_twoPow i hi j hj

/-! The obligations of the unit. -/

/-- Settles O27: EXP is the table of the powers of α. -/
theorem gfExpResult : Obligations.GfExpResult := by
  intro a s
  rw [← expRom_eq_alphaPow (Nat.le_of_lt_succ a.isLt)]
  exact finish_ok s _

/-- Settles O28: LOG gives the exponent of a nonzero byte, and 0 ends with an error. -/
theorem gfLogResult : Obligations.GfLogResult := by
  intro a s
  have hexec : exec (.gfLog a) s =
      finish s (if a = 0 then .err .domainError else .ok { s with res0 := result (logRom a) }) := rfl
  refine ⟨fun h => ?_, fun h => ⟨logRom a, logRom_lt h, alphaPow_logRom h, ?_⟩⟩
  · rw [failsWith, hexec, if_pos h]
    exact finish_err s _
  · rw [hexec, if_neg h]
    exact finish_ok s _

/-- Settles O29: the product by ROMs is the product of polynomials. -/
theorem gfMulResult : Obligations.GfMulResult := by
  intro a b s
  rw [fieldProduct_eq_gfMul]
  exact finish_ok s _

/-- Settles O30: each law is a law of exponents, but for the linearity in an operand; the exponent below 255 is the LOG. -/
theorem fieldLaws : Obligations.FieldLaws := by
  refine ⟨gfMul_comm, gfMul_assoc, gfMul_one_left, gfMul_zero_right, gfMul_xorLinear_right, fun a h => gfMul_inverse h,
    fun a h => ⟨logRom a, logRom_lt h, (expRom_logRom a h).1, fun n hn hexp => ?_⟩⟩
  rw [← hexp, logRom_expRom ⟨n, hn⟩]

end Sys2Proof.Machine
end

section
/-! PROOFS. The value of a polynomial over GF(256) at a point: what strip and the product do to it (42_rs.md R160, R161), and
with it the roots of the generator (R163). -/

namespace Sys2Proof.Machine

open Sys2Proof Sys2Proof.Claims

/-! XOR with 0, in the model's spelling of the zero byte. -/

theorem byte_xor_zero (a : Byte) : a ^^^ 0 = a := BitVec.xor_zero

theorem byte_zero_xor (a : Byte) : 0 ^^^ a = a := BitVec.zero_xor

theorem byte_xor_self (a : Byte) : a ^^^ a = 0 := BitVec.xor_self

/-! The laws of ⊗ (41_gf.md R148), and powers. -/

theorem gfMul_xor_left (a b c : Byte) : gfMul (a ^^^ b) c = gfMul a c ^^^ gfMul b c := gfMul_xorLinear_left c a b

theorem gfMul_xor_right (a b c : Byte) : gfMul a (b ^^^ c) = gfMul a b ^^^ gfMul a c := gfMul_xorLinear_right a b c

theorem gfMul_one_right (a : Byte) : gfMul a 1 = a := by rw [gfMul_comm, gfMul_one_left]

/-- x to the power n in GF(256) (41_gf.md R142). -/
def gfPow (x : Byte) : Nat → Byte
  | 0 => 1
  | n + 1 => gfMul (gfPow x n) x

/-! Horner's scheme. -/

@[simp] theorem valueAt_nil (x : Byte) : valueAt [] x = 0 := rfl

theorem valueAt_concat (p : List Byte) (c x : Byte) : valueAt (p ++ [c]) x = gfMul (valueAt p x) x ^^^ c := by
  simp [valueAt]

/-- The list p ++ q is p · x^len(q) + q (42_rs.md R160). -/
theorem valueAt_append (p q : List Byte) (x : Byte) :
    valueAt (p ++ q) x = gfMul (valueAt p x) (gfPow x q.length) ^^^ valueAt q x := by
  induction q using List.reverseRecOn with
  | nil => rw [List.append_nil, List.length_nil, gfPow, gfMul_one_right, valueAt_nil, byte_xor_zero]
  | append_singleton q c ih =>
    rw [← List.append_assoc, valueAt_concat, valueAt_concat, ih, List.length_append, List.length_singleton, gfPow,
      gfMul_xor_left, gfMul_assoc, BitVec.xor_assoc]

theorem valueAt_cons (c : Byte) (p : List Byte) (x : Byte) :
    valueAt (c :: p) x = gfMul c (gfPow x p.length) ^^^ valueAt p x := by
  have hc : valueAt [c] x = c := by rw [← List.nil_append [c], valueAt_concat, valueAt_nil, gfMul_zero_left, byte_zero_xor]
  rw [← List.singleton_append, valueAt_append, hc]

theorem valueAt_zero_cons (p : List Byte) (x : Byte) : valueAt (0 :: p) x = valueAt p x := by
  rw [valueAt_cons, gfMul_zero_left, byte_zero_xor]

theorem valueAt_zeros_append (n : Nat) (p : List Byte) (x : Byte) :
    valueAt (List.replicate n 0 ++ p) x = valueAt p x := by
  induction n with
  | zero => rfl
  | succ n ih => rw [List.replicate_succ, List.cons_append, valueAt_zero_cons, ih]

theorem valueAt_zeros (n : Nat) (x : Byte) : valueAt (List.replicate n 0) x = 0 := by
  rw [← List.append_nil (List.replicate n 0), valueAt_zeros_append, valueAt_nil]

/-- Stripping leading zeros keeps the value (42_rs.md R160). -/
@[simp] theorem valueAt_strip (p : List Byte) (x : Byte) : valueAt (strip p) x = valueAt p x := by
  induction p with
  | nil => rfl
  | cons c p ih =>
    by_cases hc : c = 0
    · rw [strip, if_pos hc, ih, hc, valueAt_zero_cons]
    · rw [strip_of_head_ne_zero p hc]

/-! Sums, multiples and products. -/

theorem valueAt_xor {p q : List Byte} (h : p.length = q.length) (x : Byte) :
    valueAt (List.zipWith (· ^^^ ·) p q) x = valueAt p x ^^^ valueAt q x := by
  induction p generalizing q with
  | nil => rw [List.length_eq_zero_iff.mp h.symm, List.zipWith_nil_left, valueAt_nil, byte_xor_self]
  | cons c p ih =>
    cases q with
    | nil => simp at h
    | cons d q =>
      have hlen : p.length = q.length := Nat.succ.inj h
      rw [List.zipWith_cons_cons, valueAt_cons, valueAt_cons, valueAt_cons, ih hlen, List.length_zipWith, ← hlen,
        Nat.min_self, gfMul_xor_left]
      ac_rfl

theorem valueAt_scale (s : Byte) (p : List Byte) (x : Byte) : valueAt (p.map (gfMul s)) x = gfMul s (valueAt p x) := by
  induction p with
  | nil => exact (gfMul_zero_right s).symm
  | cons c p ih => rw [List.map_cons, valueAt_cons, valueAt_cons, ih, List.length_map, gfMul_xor_right, gfMul_assoc]

/-- The convolution is the product of polynomials (42_rs.md R161). -/
theorem valueAt_convolve (p : List Byte) {q : List Byte} (hq : q ≠ []) (x : Byte) :
    valueAt (convolve p q) x = gfMul (valueAt p x) (valueAt q x) := by
  have hpos : 0 < q.length := List.length_pos_iff.mpr hq
  induction p with
  | nil => rw [convolve, valueAt_zeros, valueAt_nil, gfMul_zero_left]
  | cons c p ih =>
    have hlen : (q.map (gfMul c) ++ List.replicate p.length 0).length = (0 :: convolve p q).length := by
      simp [convolve_length p q hq]
      omega
    calc valueAt (convolve (c :: p) q) x
        = gfMul (gfMul c (valueAt q x)) (gfPow x p.length) ^^^ gfMul (valueAt p x) (valueAt q x) := by
          rw [convolve, valueAt_xor hlen, valueAt_append, valueAt_scale, valueAt_zeros, byte_xor_zero, List.length_replicate,
            valueAt_zero_cons, ih]
      _ = gfMul (valueAt (c :: p) x) (valueAt q x) := by
          rw [valueAt_cons, gfMul_xor_left, gfMul_assoc, gfMul_assoc, gfMul_comm (valueAt q x)]

/-- The value of Gen(k + 1) has one factor more (42_rs.md R163). -/
theorem valueAt_genPoly_succ (k : Nat) (x : Byte) :
    valueAt (genPoly (k + 1)) x = gfMul (valueAt (genPoly k) x) (x ^^^ expRom k) := by
  have hfactor : valueAt [1, expRom k] x = x ^^^ expRom k := by
    rw [← List.singleton_append, valueAt_concat, valueAt_cons, valueAt_nil, List.length_nil, gfPow, byte_xor_zero,
      gfMul_one_left, gfMul_one_left]
  rw [genPoly, polyMul, valueAt_strip, valueAt_convolve _ (by simp), hfactor]

/-- α^i is a root of Gen(k) for i < k (42_rs.md R163). -/
theorem valueAt_genPoly_alphaPow {k i : Nat} (hk : k ≤ 254) (hi : i < k) : valueAt (genPoly k) (alphaPow i) = 0 := by
  induction k with
  | zero => exact absurd hi (Nat.not_lt_zero i)
  | succ k ih =>
    rw [valueAt_genPoly_succ]
    obtain hlt | rfl := Nat.lt_succ_iff_lt_or_eq.mp hi
    · rw [ih (by omega) hlt, gfMul_zero_left]
    · rw [expRom_eq_alphaPow (by omega), byte_xor_self, gfMul_zero_right]

/-- Settles O32: Gen(k) is monic of degree k, and each of its k factors gives a root. -/
theorem generatorIsMonicWithItsRoots : Obligations.GeneratorIsMonicWithItsRoots := by
  intro k _ hk
  obtain ⟨q, hq, -⟩ := genPoly_monic k
  exact ⟨genPoly_length k, by rw [hq, List.headD_cons], fun i hi => valueAt_genPoly_alphaPow hk hi⟩

end Sys2Proof.Machine
end

section
/-! PROOFS. The remainder (42_rs.md R162, R167): a pass makes the first coefficient 0 and keeps the value at every root of
the divisor, so the loop ends with a remainder shorter than the divisor, and data followed by its EC bytes is a codeword. -/

namespace Sys2Proof.Machine

open Sys2Proof Sys2Proof.Claims

/-! One pass. -/

/-- The scale makes the leading coefficients agree: d[0] ⊗ s = p[0] (42_rs.md R162). -/
theorem gfMul_leadScale {c a : Byte} (p d : List Byte) (hc : c ≠ 0) (ha : a ≠ 0) :
    gfMul a (leadScale (c :: p) (a :: d)) = c := by
  have hlog := logRom_lt ha
  calc gfMul a (leadScale (c :: p) (a :: d))
      = gfMul (alphaPow (logRom a)) (alphaPow (logRom c + 255 - logRom a)) := by
        rw [alphaPow_logRom ha, leadScale, gexp_eq_alphaPow, alphaPow_mod, List.headD_cons, List.headD_cons]
    _ = alphaPow (logRom c + 255) := by rw [gfMul_alphaPow, Nat.add_sub_cancel' (by omega)]
    _ = c := by rw [alphaPow_periodic, alphaPow_logRom hc]

theorem reduceHead_length (s : Byte) (p d : List Byte) : (reduceHead s p d).length = p.length := by
  simp [reduceHead]
  omega

/-- A pass shortens the dividend (42_rs.md R162). -/
theorem strip_reduceHead_length {c a : Byte} (p d : List Byte) (hc : c ≠ 0) (ha : a ≠ 0) :
    (strip (reduceHead (leadScale (c :: p) (a :: d)) (c :: p) (a :: d))).length ≤ p.length := by
  have hzero : reduceHead (leadScale (c :: p) (a :: d)) (c :: p) (a :: d) =
      0 :: reduceHead (leadScale (c :: p) (a :: d)) p d := by
    rw [reduceHead, List.zipWith_cons_cons, gfMul_leadScale p d hc ha, byte_xor_self]
    rfl
  rw [hzero, strip, if_pos rfl, ← reduceHead_length (leadScale (c :: p) (a :: d)) p d]
  exact strip_length_le _

theorem xor_zeros (p : List Byte) : List.zipWith (· ^^^ ·) p (List.replicate p.length 0) = p := by
  induction p with
  | nil => rfl
  | cons c p ih => rw [List.length_cons, List.replicate_succ, List.zipWith_cons_cons, ih, byte_xor_zero]

/-- A pass adds a multiple of the divisor, moved up to the head of the dividend (42_rs.md R162). -/
theorem reduceHead_eq_xor (s : Byte) {p d : List Byte} (h : d.length ≤ p.length) :
    reduceHead s p d = List.zipWith (· ^^^ ·) p (d.map (gfMul s) ++ List.replicate (p.length - d.length) 0) := by
  induction d generalizing p with
  | nil => simpa [reduceHead] using (xor_zeros p).symm
  | cons a d ih =>
    cases p with
    | nil => simp at h
    | cons c p => simpa [reduceHead, gfMul_comm s] using ih (by simpa using h)

/-- A pass keeps the value at a root of the divisor. -/
theorem valueAt_reduceHead {d p : List Byte} {x : Byte} (s : Byte) (h : d.length ≤ p.length) (hx : valueAt d x = 0) :
    valueAt (reduceHead s p d) x = valueAt p x := by
  rw [reduceHead_eq_xor s h, valueAt_xor (by simp [h]), valueAt_append, valueAt_scale, hx,
    gfMul_zero_right, gfMul_zero_left, valueAt_zeros, byte_xor_self, byte_xor_zero]

/-! The loop. -/

theorem polyModLoop_of_short {d p : List Byte} (fuel : Nat) (h : p.length < d.length) : polyModLoop d fuel p = p := by
  cases fuel <;> simp [polyModLoop, h]

theorem valueAt_polyModLoop {d : List Byte} {x : Byte} (hx : valueAt d x = 0) (fuel : Nat) (p : List Byte) :
    valueAt (polyModLoop d fuel p) x = valueAt p x := by
  induction fuel generalizing p with
  | zero => rfl
  | succ fuel ih =>
    by_cases h : p.length < d.length
    · rw [polyModLoop_of_short _ h]
    · rw [polyModLoop, if_neg h, ih, valueAt_strip, valueAt_reduceHead _ (Nat.not_lt.mp h) hx]

/-- With as many passes as coefficients the loop ends below the degree of the divisor (42_rs.md R162). -/
theorem polyModLoop_length {a : Byte} (ha : a ≠ 0) (d : List Byte) {fuel : Nat} {p : List Byte}
    (h : (strip p).length ≤ fuel) : (polyModLoop (a :: d) fuel (strip p)).length < (a :: d).length := by
  induction fuel generalizing p with
  | zero => exact Nat.lt_of_le_of_lt h (Nat.succ_pos _)
  | succ fuel ih =>
    by_cases hs : (strip p).length < (a :: d).length
    · rwa [polyModLoop_of_short _ hs]
    · rw [polyModLoop, if_neg hs]
      obtain hp | ⟨c, q, hp, hc⟩ := strip_head p
      · simp [hp] at hs
      · rw [hp] at h ⊢
        exact ih ((strip_reduceHead_length q d hc ha).trans (Nat.le_of_succ_le_succ h))

/-- Once the remainder is short, a further pass changes nothing. -/
theorem polyModLoop_succ {d : List Byte} {fuel : Nat} {p : List Byte} (h : (polyModLoop d fuel p).length < d.length) :
    polyModLoop d (fuel + 1) p = polyModLoop d fuel p := by
  induction fuel generalizing p with
  | zero => exact polyModLoop_of_short 1 h
  | succ fuel ih =>
    by_cases hs : p.length < d.length
    · rw [polyModLoop_of_short _ hs, polyModLoop_of_short _ hs]
    · rw [polyModLoop, if_neg hs] at h
      rw [polyModLoop, if_neg hs, ih h, polyModLoop, if_neg hs]

/-! PolyMod. -/

theorem valueAt_polyMod {d : List Byte} {x : Byte} (hx : valueAt d x = 0) (p : List Byte) :
    valueAt (polyMod p d) x = valueAt p x := by
  rw [polyMod, valueAt_polyModLoop hx, valueAt_strip]

theorem polyMod_length {a : Byte} (ha : a ≠ 0) (p d : List Byte) : (polyMod p (a :: d)).length < (a :: d).length :=
  polyModLoop_length ha d (strip_length_le p)

theorem polyMod_zero_cons {a : Byte} (ha : a ≠ 0) (p d : List Byte) : polyMod (0 :: p) (a :: d) = polyMod p (a :: d) :=
  polyModLoop_succ (polyMod_length ha p d)

theorem strip_zeros (n : Nat) : strip (List.replicate n 0) = [] := by
  induction n with
  | zero => rfl
  | succ n ih => rw [List.replicate_succ, strip, if_pos rfl, ih]

theorem polyMod_zeros (n : Nat) (a : Byte) (d : List Byte) : polyMod (List.replicate n 0) (a :: d) = [] := by
  rw [polyMod, strip_zeros]
  exact polyModLoop_of_short _ (Nat.succ_pos _)

/-! The EC bytes (42_rs.md R167). -/

/-- A remainder right-aligned in k bytes, zero-padded on the left if short (42_rs.md R167). -/
def padTo (k : Nat) (r : List Byte) : List Byte := List.replicate (k - r.length) 0 ++ r

theorem valueAt_padTo (k : Nat) (r : List Byte) (x : Byte) : valueAt (padTo k r) x = valueAt r x :=
  valueAt_zeros_append _ r x

/-- Nothing is lost of a remainder that fits into k bytes. -/
theorem ecBytes_eq_padTo {data g : List Byte} {k : Nat} (h : (polyMod (data ++ List.replicate k 0) g).length ≤ k) :
    ecBytes data k g = padTo k (polyMod (data ++ List.replicate k 0) g) := by
  refine List.ext_getElem (by rw [ecBytes_length, padTo, List.length_append, List.length_replicate]; omega)
    fun i hi hi' => ?_
  simp only [ecBytes, List.getElem_map, List.getElem_range]
  exact List.getD_eq_getElem _ _ hi'

theorem rsRem_eq_padTo (data : List Byte) (k : Nat) :
    rsRem data k = padTo k (polyMod (data ++ List.replicate k 0) (genPoly k)) := by
  obtain ⟨q, hq, hl⟩ := genPoly_monic k
  refine ecBytes_eq_padTo (Nat.le_of_lt_succ ?_)
  rw [hq, ← hl]
  exact polyMod_length (by decide) _ q

theorem rsRem_length (data : List Byte) (k : Nat) : (rsRem data k).length = k := ecBytes_length data k _

theorem valueAt_rsRem (data : List Byte) {k : Nat} {x : Byte} (hx : valueAt (genPoly k) x = 0) :
    valueAt (rsRem data k) x = gfMul (valueAt data x) (gfPow x k) := by
  rw [rsRem_eq_padTo, valueAt_padTo, valueAt_polyMod hx, valueAt_append, valueAt_zeros, List.length_replicate,
    byte_xor_zero]

/-- The roots of Gen(k) are roots of the data followed by its EC bytes. -/
theorem valueAt_codeword (data : List Byte) {k : Nat} {x : Byte} (hx : valueAt (genPoly k) x = 0) :
    valueAt (data ++ rsRem data k) x = 0 := by
  rw [valueAt_append, rsRem_length, valueAt_rsRem data hx, byte_xor_self]

theorem rsRem_zero_cons (data : List Byte) (k : Nat) : rsRem (0 :: data) k = rsRem data k := by
  obtain ⟨q, hq, -⟩ := genPoly_monic k
  rw [rsRem_eq_padTo, rsRem_eq_padTo, hq, List.cons_append, polyMod_zero_cons (by decide)]

theorem rsRem_zeros (n k : Nat) : rsRem (List.replicate n 0) k = List.replicate k 0 := by
  obtain ⟨q, hq, -⟩ := genPoly_monic k
  rw [rsRem_eq_padTo, hq, List.replicate_append_replicate, polyMod_zeros, padTo, List.append_nil]
  rfl

/-- Settles O35: the data's value at a root of Gen(k), moved up by k places, is the value of the EC bytes, so the two cancel;
leading zeros are stripped before the division. -/
theorem remainderMakesCodeword : Obligations.RemainderMakesCodeword := fun data k _ hk =>
  ⟨rsRem_length data k, fun _ hi => valueAt_codeword data (valueAt_genPoly_alphaPow hk hi), rsRem_zero_cons data k,
    fun n => rsRem_zeros n k⟩

end Sys2Proof.Machine
end

section
/-! PROOFS. The commands of the Reed–Solomon unit (42_rs.md R164, R165). -/

namespace Sys2Proof.Machine

open Sys2Proof Sys2Proof.Claims

/-- Settles O31: the range of k is checked first; the store of a legal k is `genStore`. -/
theorem rsGenResult : Obligations.RsGenResult := by
  intro k s
  have hexec : exec (.rsGen k) s =
      finish s (if k = 0 ∨ s.params.ecMax < k.toNat then .err .invalidParameter
        else .ok { s with gen := genStore s.params.ecMax k.toNat, genLen := k, res0 := k.setWidth 32 }) := rfl
  refine ⟨fun h => ?_, fun h0 hk => ⟨genStore s.params.ecMax k.toNat, ?_, genStore_length _ _, genStore_take hk,
    fun j hj => genStore_beyond _ hj⟩⟩
  · rw [failsWith, hexec, if_pos h]
    exact finish_err s _
  · rw [hexec, if_neg (not_or.mpr ⟨h0, Nat.not_lt.mpr hk⟩)]
    exact finish_ok s _

/-- Without a generator RS_DIV is NOT_READY (42_rs.md R165). -/
theorem exec_rsDiv_notReady {s : State} (h : s.genLen = 0) : exec .rsDiv s = .next (s.complete .notReady) := by
  simp [exec, execRsDiv, h]

/-- With a generator, a region outside M is ADDRESS_ERROR (42_rs.md R165). -/
theorem exec_rsDiv_addressError {s : State} (h : s.genLen ≠ 0)
    (ho : s.outside s.argA s.argB ∨ s.outside s.argC s.genLen.toNat) :
    exec .rsDiv s = .next (s.complete .addressError) := by
  have hk : s.genLen.toNat ≠ 0 := BitVec.toNat_ne.mp h
  simp only [exec, execRsDiv, if_neg hk, if_pos ho, finish_err]

/-- With both regions in M and the data defined, RS_DIV stores the EC bytes (42_rs.md R165). -/
theorem exec_rsDiv_ok {s : State} {data : List Byte} (h : s.genLen ≠ 0) (hsrc : ¬s.outside s.argA s.argB)
    (hdst : ¬s.outside s.argC s.genLen.toNat) (hdata : s.mem.readBytes s.argA s.argB = .ok data) :
    exec .rsDiv s = .next (State.complete .none { s with
      mem := s.mem.writeBytes s.argC (ecBytes data s.genLen.toNat (s.gen.take (s.genLen.toNat + 1)))
      res0 := s.genLen.setWidth 32 }) := by
  have hk : s.genLen.toNat ≠ 0 := BitVec.toNat_ne.mp h
  simp only [exec, execRsDiv, if_neg hk, if_neg (not_or.mpr ⟨hsrc, hdst⟩), hdata, finish_ok]

/-- Settles O34: the generator is checked before the regions. -/
theorem rsDivErrors : Obligations.RsDivErrors := fun _ => ⟨exec_rsDiv_notReady, exec_rsDiv_addressError⟩

/-- Settles O33: the sound GEN store holds Gen(GEN_LEN), so the bytes stored at ARG2 are those of RSRem, k of them. -/
theorem rsDivResult : Obligations.RsDivResult := by
  intro s data hgen h0 hlen hholds hsrc hdst
  have hread : s.mem.readBytes s.argA s.argB = .ok data := (Memory.readBytes_ok_iff _ _ _ _).mpr ⟨hlen, hholds⟩
  have hexec := exec_rsDiv_ok h0 (Nat.not_lt.mpr hsrc) (Nat.not_lt.mpr hdst) hread
  rw [hgen.holdsGen h0, ← rsRem] at hexec
  refine ⟨_, hexec, rfl, rsRem_length _ _, fun i hi => ?_, fun b hb => ?_⟩
  · exact Memory.read_writeBytes_inside _ _ _ hi
  · exact Memory.read_writeBytes_outside _ _ (by rwa [rsRem_length])

end Sys2Proof.Machine
end

section
/-! PROOFS. The BCH unit (43_bch.md R180 to R185). A pass of BCHRem takes a shifted generator off the dividend and shortens it,
so the loop ends with a remainder shorter than the generator, and the dividend followed by its check bits is a multiple of the
generator. -/

namespace Sys2Proof.Machine

open Sys2Proof Sys2Proof.Claims

/-! The number of significant bits. -/

theorem digit_le_iff {x n : Nat} : digit x ≤ n ↔ x < 2 ^ n := by
  by_cases hx : x = 0
  · simp [hx, digit]
  · rw [digit, if_neg hx]
    exact Nat.log2_lt hx

theorem testBit_of_digit_le {x i : Nat} (h : digit x ≤ i) : x.testBit i = false :=
  Nat.testBit_lt_two_pow (digit_le_iff.mp h)

theorem testBit_of_digit_eq_succ {x i : Nat} (h : digit x = i + 1) : x.testBit i = true := by
  by_cases hx : x = 0
  · simp [hx, digit] at h
  · rw [digit, if_neg hx, Nat.add_right_cancel_iff] at h
    exact h ▸ Nat.testBit_log2 hx

theorem digit_pos {x : Nat} (h : x ≠ 0) : 0 < digit x := by simp [digit, h]

/-! The remainder (43_bch.md R180). -/

/-- A pass cancels the highest bit of the dividend. -/
theorem digit_pass_lt {d g : Nat} (hg : g ≠ 0) (h : digit g ≤ digit d) :
    digit (d ^^^ (g <<< (digit d - digit g))) < digit d := by
  have hpos := digit_pos hg
  obtain ⟨n, hn⟩ : ∃ n, digit d = n + 1 := ⟨digit d - 1, by omega⟩
  obtain ⟨k, hk⟩ : ∃ k, digit g = k + 1 := ⟨digit g - 1, by omega⟩
  rw [hn, hk, Nat.lt_succ_iff, digit_le_iff]
  refine Nat.lt_pow_two_of_testBit _ fun i hi => ?_
  have hshift : i ≥ n + 1 - (k + 1) := by omega
  rw [Nat.testBit_xor, Nat.testBit_shiftLeft, decide_eq_true hshift, Bool.true_and]
  obtain rfl | hlt := Nat.eq_or_lt_of_le hi
  · rw [testBit_of_digit_eq_succ hn, testBit_of_digit_eq_succ (hk.trans (by omega))]
    rfl
  · rw [testBit_of_digit_le (by omega), testBit_of_digit_le (by omega)]
    rfl

theorem digit_bchRemLoop_lt {g : Nat} (hg : g ≠ 0) (fuel d : Nat) (h : digit d ≤ fuel) :
    digit (bchRemLoop g fuel d) < digit g := by
  induction fuel generalizing d with
  | zero => exact Nat.lt_of_le_of_lt h (digit_pos hg)
  | succ fuel ih =>
    rw [bchRemLoop]
    split
    next hlt => exact hlt
    next hge => exact ih _ (Nat.le_of_lt_succ (Nat.lt_of_lt_of_le (digit_pass_lt hg (Nat.le_of_not_lt hge)) h))

/-- The remainder is shorter than the generator. -/
theorem digit_bchRem_lt {g : Nat} (hg : g ≠ 0) (d : Nat) : digit (bchRem d g) < digit g :=
  digit_bchRemLoop_lt hg _ d (Nat.le_refl _)

theorem carryless_zero_right (g : Nat) : carryless g 0 = 0 := by simp [carryless]

theorem carryless_twoPow (g : Nat) {i : Nat} (hi : i < 8) : carryless g (2 ^ i) = g <<< i := by
  interval_cases i <;> simp [carryless, List.range, List.range.loop, Nat.testBit]

/-- The loop takes a multiple of the generator off the dividend; 8 bounds the factors `carryless` reads. -/
theorem bchRemLoop_quotient {g n : Nat} (hg : g ≠ 0) (hn : n ≤ 8) (fuel d : Nat) (h : digit d < digit g + n) :
    ∃ q < 2 ^ n, carryless g q = d ^^^ bchRemLoop g fuel d := by
  have hunchanged (x : Nat) : ∃ q < 2 ^ n, carryless g q = x ^^^ x :=
    ⟨0, Nat.two_pow_pos n, by rw [carryless_zero_right, Nat.xor_self]⟩
  induction fuel generalizing d with
  | zero => exact hunchanged d
  | succ fuel ih =>
    rw [bchRemLoop]
    split
    next => exact hunchanged d
    next hge =>
      have hpass := digit_pass_lt hg (Nat.le_of_not_lt hge)
      obtain ⟨q, hq, hmul⟩ := ih _ (hpass.trans h)
      have hk : digit d - digit g < n := by omega
      refine ⟨2 ^ (digit d - digit g) ^^^ q, Nat.xor_lt_two_pow (Nat.pow_lt_pow_right (by decide) hk) hq, ?_⟩
      rw [carryless_xor_right, carryless_twoPow g (hk.trans_le hn), hmul, Nat.xor_assoc d, Nat.xor_left_comm d,
        Nat.xor_xor_cancel_left]

/-! Data followed by its check bits. -/

theorem shiftLeft_or_eq_xor {b k : Nat} (hb : b < 2 ^ k) (a : Nat) : (a <<< k) ||| b = (a <<< k) ^^^ b := by
  refine Nat.eq_of_testBit_eq fun i => ?_
  rw [Nat.testBit_or, Nat.testBit_xor, Nat.testBit_shiftLeft]
  by_cases hi : i ≥ k
  · rw [Nat.testBit_lt_two_pow (hb.trans_le (Nat.pow_le_pow_right (by decide) hi)), Bool.or_false, Bool.xor_false]
  · rw [decide_eq_false hi, Bool.false_and, Bool.false_or, Bool.false_xor]

section
variable {g k : Nat} (hg : digit g = k + 1)
include hg

theorem ne_zero_of_digit_eq_succ : g ≠ 0 := by
  rintro rfl
  cases hg

theorem bchRem_lt (d : Nat) : bchRem d g < 2 ^ k :=
  digit_le_iff.mp (Nat.le_of_lt_succ ((digit_bchRem_lt (ne_zero_of_digit_eq_succ hg) d).trans_eq hg))

/-- Data of n bits followed by its check bits is a multiple of the generator. -/
theorem codeword_multiple {n a : Nat} (hn : n ≤ 8) (ha : a < 2 ^ n) :
    ∃ q < 2 ^ n, carryless g q = (a <<< k) ||| bchRem (a <<< k) g := by
  have hdigit : digit (a <<< k) ≤ n + k := digit_le_iff.mpr (Nat.shiftLeft_lt ha)
  rw [shiftLeft_or_eq_xor (bchRem_lt hg _)]
  exact bchRemLoop_quotient (ne_zero_of_digit_eq_succ hg) hn _ _ (by omega)

theorem codeword_lt {n a : Nat} (ha : a < 2 ^ n) : (a <<< k) ||| bchRem (a <<< k) g < 2 ^ (n + k) :=
  Nat.or_lt_two_pow (Nat.shiftLeft_lt ha)
    ((bchRem_lt hg _).trans_le (Nat.pow_le_pow_right (by decide) (Nat.le_add_left k n)))

theorem codeword_shiftRight (a : Nat) : ((a <<< k) ||| bchRem (a <<< k) g) >>> k = a := by
  rw [Nat.shiftRight_or_distrib, Nat.shiftLeft_shiftRight, Nat.shiftRight_eq_zero _ _ (bchRem_lt hg _), Nat.or_zero]

end

/-! The two words and their commands. -/

theorem digit_versionGenerator : digit Config.versionGenerator = 12 + 1 := by decide

/-- The table of 43_bch.md R185 is the table of FormatWord. -/
theorem formatWord_eq_table : ∀ (e : BitVec 2) (m : BitVec 3),
    formatWord e m = (formatTable.getD e.toNat []).getD m.toNat 0 := by decide

/-- Settles O36: the format words are the entries of the table, and the version word is its 6 data bits followed by their 12
check bits. -/
theorem bchResults : Obligations.BchResults := by
  refine ⟨fun e m s => ?_, fun v s => ?_⟩
  · rw [← formatWord_eq_table]
    exact finish_ok s _
  · obtain ⟨q, hq, hmul⟩ := codeword_multiple digit_versionGenerator (n := 6) (by decide) v.isLt
    exact ⟨versionWord v.toNat, q, finish_ok s _, codeword_lt digit_versionGenerator v.isLt,
      codeword_shiftRight digit_versionGenerator _, hq, hmul⟩

end Sys2Proof.Machine
end

section
/-! PROOFS. WriteBits appends to the bit stream (44_packer.md R200, R201), and how the packer commands that append bits end. -/

namespace Sys2Proof.Machine

open Sys2Proof Sys2Proof.Claims

/-! The bits of the stream after WriteBits. -/

/-- Appends is about M and BS_BASE of the later state alone. -/
theorem appends_congr {s t u : State} {bs : List Bool} (h : Appends s t bs) (hm : u.mem = t.mem)
    (hb : u.bsBase = t.bsBase) : Appends s u bs := by
  unfold Appends streamBitAt at h ⊢
  rwa [hm, hb]

/-- The empty string is appended by leaving M as it is. -/
theorem appends_nil (s : State) : Appends s s [] :=
  ⟨rfl, nofun, fun h => absurd rfl h, fun _ _ => rfl, fun _ _ => rfl, fun _ => rfl⟩

/-- What WriteBits makes of s when the partial byte is old: the bytes of the longer stream stored, and BS_LEN moved
(44_packer.md R201). -/
def State.withStream (s : State) (bs : List Bool) (old : Byte) : State :=
  { s with
    mem := s.mem.writeBytes (s.bsBase.toNat + s.bsLen.toNat / 8) (streamBytes s.bsLen.toNat bs old)
    bsLen := .ofNat 32 (s.bsLen.toNat + bs.length) }

/-- Bit p of the stream is bit p mod 8 of its byte, counted from the top (44_packer.md R200). -/
theorem streamBitAt_eq (s : State) (p : Nat) :
    streamBitAt s p = (s.mem.read (s.bsBase.toNat + p / 8)).map fun b => b.getMsbD (p % 8) := by
  have hmod : p % 8 < 8 := Nat.mod_lt p (by decide)
  simp only [streamBitAt, BitVec.getMsbD, hmod, decide_true, Bool.true_and]

/-- A bit of the bytes written is the one R201 puts there. -/
theorem streamBitAt_written {s : State} {bs : List Bool} (old : Byte) (hb : bs ≠ []) {q : Nat}
    (hlo : s.bsLen.toNat / 8 ≤ q / 8) (hhi : q / 8 < bytesFor (s.bsLen.toNat + bs.length)) :
    streamBitAt (s.withStream bs old) q = some (streamBit s.bsLen.toNat bs old q) := by
  have hend := streamBytes_end s.bsLen.toNat old hb
  obtain ⟨k, hk⟩ := Nat.exists_eq_add_of_le hlo
  have hlt : k < (streamBytes s.bsLen.toNat bs old).length := by omega
  have hread := Memory.read_writeBytes_inside s.mem (s.bsBase.toNat + s.bsLen.toNat / 8) _ hlt
  have hbit := streamBytes_bit s.bsLen.toNat bs old hlt (Nat.mod_lt q (by decide : 8 > 0))
  rw [← hk, Nat.div_add_mod] at hbit
  rw [streamBitAt_eq, hk, ← Nat.add_assoc]
  exact (congrArg _ hread).trans (congrArg some hbit)

/-- A byte below or above the bytes written keeps its value. -/
theorem withStream_read_outside (s : State) {bs : List Bool} (old : Byte) (hb : bs ≠ []) {a : Nat}
    (ha : a < s.bsBase.toNat + s.bsLen.toNat / 8 ∨ s.bsBase.toNat + bytesFor (s.bsLen.toNat + bs.length) ≤ a) :
    (s.withStream bs old).mem.read a = s.mem.read a := by
  have hend := streamBytes_end s.bsLen.toNat old hb
  exact Memory.read_writeBytes_outside _ _ (by omega)

/-- When the stream does not end at a byte boundary, the partial byte is the byte of M where it ends. -/
theorem State.read_of_partialByte {s : State} {old : Byte} (h : s.partialByte = .ok old) (hm : s.bsLen.toNat % 8 ≠ 0) :
    s.mem.read (s.bsBase.toNat + s.bsLen.toNat / 8) = some old := by
  rw [State.partialByte, if_neg hm] at h
  split at h
  · cases h; assumption
  · cases h

/-- A bit of the earlier stream keeps its value: its byte is not written, or it is the partial byte, whose bits R201 keeps. -/
theorem streamBitAt_kept {s : State} {bs : List Bool} {old : Byte} (hb : bs ≠ []) (ho : s.partialByte = .ok old) {p : Nat}
    (hp : p < s.bsLen.toNat) : streamBitAt (s.withStream bs old) p = streamBitAt s p := by
  have hpos : 0 < bs.length := List.length_pos_iff.mpr hb
  by_cases hbyte : p / 8 < s.bsLen.toNat / 8
  · exact congrArg _ (withStream_read_outside s old hb (.inl (Nat.add_lt_add_left hbyte _)))
  · have heq : p / 8 = s.bsLen.toNat / 8 := by omega
    have hread := State.read_of_partialByte ho (by omega)
    rw [streamBitAt_written old hb (by omega) (by unfold bytesFor; omega), streamBitAt_eq, heq, hread, Option.map_some,
      streamBit, if_neg (by omega), if_neg (by omega), if_pos heq]

/-- WriteBits with the partial byte at hand appends its bits (44_packer.md R201). -/
theorem withStream_appends {s : State} {bs : List Bool} {old : Byte} (hb : bs ≠ []) (ho : s.partialByte = .ok old) :
    Appends s (s.withStream bs old) bs := by
  refine ⟨rfl, fun i hi => ?_, fun _ p hlo hhi => ?_, fun p hp => streamBitAt_kept hb ho hp,
    fun a ha => withStream_read_outside s old hb ha, fun h => absurd h hb⟩
  · rw [streamBitAt_written old hb (by omega) (by unfold bytesFor; omega), streamBit, if_pos ⟨by omega, by omega⟩,
      Nat.add_sub_cancel_left, List.getD_eq_getElem _ _ hi]
  · rw [streamBitAt_written old hb (by omega) (by omega), streamBit, if_neg (by omega), if_pos hlo]

/-- Whenever WriteBits answers a state, it has appended its bits and moved BS_LEN by their number (44_packer.md R201). -/
theorem State.writeBits_appends {s t : State} {bs : List Bool} (h : s.writeBits bs = .ok t) :
    t = { s with mem := t.mem, bsLen := .ofNat 32 (s.bsLen.toNat + bs.length) } ∧ Appends s t bs := by
  obtain ⟨rfl, rfl⟩ | ⟨hb, old, ho, rfl⟩ := State.writeBits_ok h
  · exact ⟨by simp, appends_nil t⟩
  · exact ⟨rfl, withStream_appends hb ho⟩

/-- WriteBits answers a state when the partial byte is defined, or there is nothing to write (44_packer.md R201). -/
theorem State.writeBits_answers {s : State} {bs : List Bool} (h : bs = [] ∨ PartialByteDefined s) :
    ∃ t, s.writeBits bs = .ok t := by
  cases ht : s.writeBits bs with
  | ok t => exact ⟨t, rfl⟩
  | error a =>
    obtain ⟨hb, hm, rfl, hr⟩ := State.writeBits_error ht
    obtain h | h | h := h
    exacts [absurd h hb, absurd h hm, absurd hr h]

/-- WriteBits of at least one bit fails at an undefined partial byte (44_packer.md R201). -/
theorem State.writeBits_undefined {s : State} {bs : List Bool} (hb : bs ≠ []) (hm : s.bsLen.toNat % 8 ≠ 0)
    (hr : s.mem.read (s.bsBase.toNat + s.bsLen.toNat / 8) = none) :
    s.writeBits bs = .error (s.bsBase.toNat + s.bsLen.toNat / 8) := by
  have hl : bs.length ≠ 0 := mt List.length_eq_zero_iff.mp hb
  simp only [State.writeBits, if_neg hl, State.partialByte, if_neg hm, hr]

/-! The last step of the packer commands: WriteBits, and the result registers. -/

/-- The execution that appends the bits bs and answers r0 and r1 (44_packer.md R209, R211, R216). -/
def State.appending (s : State) (bs : List Bool) (r0 r1 : Word) : Execution :=
  match s.writeBits bs with
  | .error a => .fault (.uninitRead a)
  | .ok t => .ok { t with res0 := r0, res1 := r1 }

/-- With the partial byte defined, the bits are appended and the command completes. -/
theorem State.finish_appending {s : State} {bs : List Bool} (r0 r1 : Word) (h : bs = [] ∨ PartialByteDefined s) :
    ∃ t, finish s (s.appending bs r0 r1) = .next t ∧
      t = ended .none { s with
        mem := t.mem, bsLen := .ofNat 32 (s.bsLen.toNat + bs.length), res0 := r0, res1 := r1 } ∧
      Appends s t bs := by
  obtain ⟨t, ht⟩ := State.writeBits_answers h
  obtain ⟨hframe, happ⟩ := State.writeBits_appends ht
  refine ⟨State.complete .none { t with res0 := r0, res1 := r1 }, ?_, ?_, appends_congr happ rfl rfl⟩
  · rw [State.appending, ht]
    rfl
  · rw [hframe]
    rfl

/-- With the partial byte undefined, the fault is recorded and nothing else changes (20_memory.md R63). -/
theorem State.finish_appending_undefined {s : State} {bs : List Bool} (r0 r1 : Word) (hf : s.fault = none) (hb : bs ≠ [])
    (hm : s.bsLen.toNat % 8 ≠ 0) (hr : s.mem.read (s.bsBase.toNat + s.bsLen.toNat / 8) = none) :
    finish s (s.appending bs r0 r1) =
      .next { s with fault := some (.uninitRead (s.bsBase.toNat + s.bsLen.toNat / 8)) } := by
  rw [State.appending, State.writeBits_undefined hb hm hr, ← State.recordFault_of_clean hf]
  exact finish_fault s _

end Sys2Proof.Machine
end

section
/-! PROOFS. The commands of the packer that append bits (44_packer.md R209 to R216): each checks its operands in order, and
then appends its bits. -/

namespace Sys2Proof.Machine

open Sys2Proof Sys2Proof.Claims

/-! BS_PUT. -/

/-- BS_PUT's checks and its last step (44_packer.md R211). -/
theorem exec_bsPut (s : State) :
    exec .bsPut s = finish s (
      if 32 < s.arg1.toNat then .err .invalidParameter
      else if s.streamOutside s.arg1.toNat then .err .addressError
      else s.appending (bits s.arg0.toNat s.arg1.toNat) (.ofNat 32 (s.bsLen.toNat + s.arg1.toNat)) s.res1) := by
  rw [exec, execBsPut, State.argA, State.argB, State.appending]
  cases ht : s.writeBits (bits s.arg0.toNat s.arg1.toNat) with
  | error a => rfl
  | ok t =>
    have hframe := (State.writeBits_appends ht).1
    rw [bits_length] at hframe
    rw [hframe]

/-- BS_PUT with all checks passed (44_packer.md R211). -/
theorem exec_bsPut_checked {s : State} (hn : s.arg1.toNat ≤ 32)
    (hin : s.bsBase.toNat + bytesFor (s.bsLen.toNat + s.arg1.toNat) ≤ s.params.memSize) :
    exec .bsPut s =
      finish s (s.appending (bits s.arg0.toNat s.arg1.toNat) (.ofNat 32 (s.bsLen.toNat + s.arg1.toNat)) s.res1) := by
  rw [exec_bsPut, if_neg (Nat.not_lt.mpr hn), if_neg (Nat.not_lt.mpr hin)]

/-- Settles O38: the bits appended are bits(ARG0, n), and n = 0 appends nothing. -/
theorem bsPutResult : Obligations.BsPutResult := by
  intro s hn hin hpart
  have hdefined : bits s.arg0.toNat s.arg1.toNat = [] ∨ PartialByteDefined s :=
    hpart.imp_left fun h0 => by rw [h0]; rfl
  obtain ⟨t, hexec, ht, happ⟩ := State.finish_appending (.ofNat 32 (s.bsLen.toNat + s.arg1.toNat)) s.res1 hdefined
  rw [← exec_bsPut_checked hn hin] at hexec
  rw [bits_length] at ht
  exact ⟨t, _, hexec, ht, bits_length _ _, fun i hi => bits_getElem _ _ hi, happ⟩

/-! BS_FINAL. -/

/-- BS_FINAL's checks and its last step (44_packer.md R216). -/
theorem exec_bsFinal (s : State) :
    exec .bsFinal s = finish s (
      if 8 * s.arg0.toNat < s.bsLen.toNat then .err .capacityExceeded
      else if s.outside s.bsBase.toNat s.arg0.toNat then .err .addressError
      else s.appending (finalBits s.bsLen.toNat s.arg0.toNat) (result (padCount s.bsLen.toNat s.arg0.toNat))
        (result (terminatorBits s.bsLen.toNat s.arg0.toNat))) := rfl

/-- BS_FINAL with all checks passed (44_packer.md R216). -/
theorem exec_bsFinal_checked {s : State} (hlen : s.bsLen.toNat ≤ 8 * s.arg0.toNat)
    (hin : s.bsBase.toNat + s.arg0.toNat ≤ s.params.memSize) :
    exec .bsFinal s = finish s (s.appending (finalBits s.bsLen.toNat s.arg0.toNat)
      (result (padCount s.bsLen.toNat s.arg0.toNat)) (result (terminatorBits s.bsLen.toNat s.arg0.toNat))) := by
  rw [exec_bsFinal, if_neg (Nat.not_lt.mpr hlen), if_neg (Nat.not_lt.mpr hin)]

theorem bits_zero (w : Nat) : bits 0 w = List.replicate w false := by simp [bits]

/-- The terminator and the bits to the byte boundary are zero, and the pad bytes alternate (44_packer.md R216). -/
theorem finalBits_eq (len c : Nat) :
    finalBits len c =
      List.replicate (terminatorBits len c + boundaryBits (len + terminatorBits len c)) false ++
      (List.range (padCount len c)).flatMap fun i =>
        if i % 2 = 0 then [true, true, true, false, true, true, false, false]
        else [false, false, false, true, false, false, false, true] := by
  simp only [finalBits, bits_zero, List.replicate_append_replicate, padBits]
  congr 2
  funext i
  split <;> rfl

/-- Settles O43: the lengths of the three parts add up to the capacity. -/
theorem bsFinalResult : Obligations.BsFinalResult := by
  intro s hlen hin hpart
  obtain ⟨t, hexec, ht, happ⟩ := State.finish_appending (bs := finalBits s.bsLen.toNat s.arg0.toNat)
    (result (padCount s.bsLen.toNat s.arg0.toNat)) (result (terminatorBits s.bsLen.toNat s.arg0.toNat)) (.inr hpart)
  have htotal := finalBits_length (len := s.bsLen.toNat) (c := s.arg0.toNat) hlen
  rw [← exec_bsFinal_checked hlen hin] at hexec
  rw [htotal] at ht
  rw [finalBits_eq] at happ
  rw [finalBits, List.length_append, List.length_append, bits_length, bits_length, padBits_length] at htotal
  refine ⟨t, terminatorBits s.bsLen.toNat s.arg0.toNat,
    boundaryBits (s.bsLen.toNat + terminatorBits s.bsLen.toNat s.arg0.toNat), padCount s.bsLen.toNat s.arg0.toNat,
    hexec, ht, rfl, ?_, ?_, ?_, happ⟩
  · exact Nat.mod_lt _ (by decide)
  · unfold boundaryBits
    omega
  · omega

/-- Settles O44: the checks of the two commands, each failing where the ones before it pass. -/
theorem packerErrors : Obligations.PackerErrors := by
  intro s
  refine ⟨fun hn => ?_, fun hn hout => ?_, fun hlen => ?_, fun hlen hout => ?_⟩
  · rw [failsWith, exec_bsPut, if_pos hn]
    exact finish_err s _
  · rw [failsWith, exec_bsPut, if_neg (Nat.not_lt.mpr hn), if_pos hout]
    exact finish_err s _
  · rw [failsWith, exec_bsFinal, if_pos hlen]
    exact finish_err s _
  · rw [failsWith, exec_bsFinal, if_neg (Nat.not_lt.mpr hlen), if_pos hout]
    exact finish_err s _

/-! The segment commands. -/

theorem exec_segCommand (mode : Mode) (s : State) : exec (segCommand mode) s = finish s (segPack mode s) := by
  cases mode <;> rfl

@[simp] theorem segmentBits_length (mode : Mode) (v count : Nat) (body : List Bool) :
    (segmentBits mode v count body).length = 4 + lengthWidth mode v + body.length := by
  simp [segmentBits, Nat.add_assoc]

theorem segmentBits_ne_nil (mode : Mode) (v count : Nat) (body : List Bool) : segmentBits mode v count body ≠ [] := by
  rw [← List.length_pos_iff, segmentBits_length]
  omega

theorem State.not_versionIllegal {s : State} (h1 : 1 ≤ s.version.toNat) (h40 : s.version.toNat ≤ 40) :
    ¬s.versionIllegal := by
  simp only [State.versionIllegal, State.v]
  omega

/-- What the checks of R209 up to the read of the source ask for: a legal version, and a source in M that holds src. -/
structure SegmentSource (s : State) (src : List Byte) : Prop where
  version_pos : 1 ≤ s.version.toNat
  version_le : s.version.toNat ≤ 40
  inside : s.arg0.toNat + s.arg1.toNat ≤ s.params.memSize
  length : src.length = s.arg1.toNat
  holds : Holds s.mem s.arg0.toNat src

theorem SegmentSource.not_versionIllegal {s : State} {src : List Byte} (h : SegmentSource s src) : ¬s.versionIllegal :=
  State.not_versionIllegal h.version_pos h.version_le

theorem SegmentSource.not_outside {s : State} {src : List Byte} (h : SegmentSource s src) :
    ¬s.outside s.argA s.argB :=
  Nat.not_lt.mpr h.inside

theorem SegmentSource.readBytes {s : State} {src : List Byte} (h : SegmentSource s src) :
    s.mem.readBytes s.argA s.argB = .ok src :=
  (Memory.readBytes_ok_iff _ _ _ _).mpr ⟨h.length, h.holds⟩

/-- SegPack from the payload on, once the source can be read (44_packer.md R209). -/
theorem segPack_of_payload {mode : Mode} {s : State} {src : List Byte} {body : List Bool} (h : SegmentSource s src)
    (hbody : payload mode src = some body) :
    segPack mode s =
      if 2 ^ lengthWidth mode s.version.toNat ≤ charCount mode s.arg1.toNat then .err .capacityExceeded
      else if s.streamOutside (4 + lengthWidth mode s.version.toNat + body.length) then .err .addressError
      else s.appending (segmentBits mode s.version.toNat (charCount mode s.arg1.toNat) body)
        (result (4 + lengthWidth mode s.version.toNat + body.length)) (result (charCount mode s.arg1.toNat)) := by
  simp only [segPack, if_neg h.not_versionIllegal, if_neg h.not_outside, h.readBytes, hbody, segmentBits_length]
  rfl

/-- A source that can be read but has no payload (44_packer.md R209). -/
theorem segPack_unsupported {mode : Mode} {s : State} {src : List Byte} (h : SegmentSource s src)
    (hbody : payload mode src = none) : segPack mode s = .err .unsupportedCharacter := by
  simp only [segPack, if_neg h.not_versionIllegal, if_neg h.not_outside, h.readBytes, hbody]

/-- A segment command with all checks passed appends the segment (44_packer.md R209). -/
theorem exec_segCommand_checked {mode : Mode} {s : State} {src : List Byte} {body : List Bool} (h : SegmentSource s src)
    (hbody : payload mode src = some body) (hcount : charCount mode s.arg1.toNat < 2 ^ lengthWidth mode s.version.toNat)
    (hout : s.bsBase.toNat + bytesFor (s.bsLen.toNat + (4 + lengthWidth mode s.version.toNat + body.length)) ≤
      s.params.memSize) :
    exec (segCommand mode) s = finish s (s.appending (segmentBits mode s.version.toNat (charCount mode s.arg1.toNat) body)
      (result (4 + lengthWidth mode s.version.toNat + body.length)) (result (charCount mode s.arg1.toNat))) := by
  rw [exec_segCommand, segPack_of_payload h hbody, if_neg (Nat.not_le.mpr hcount), if_neg (Nat.not_lt.mpr hout)]

/-- Settles O39: the bits appended are the segment's, and their number is that of its three parts. -/
theorem segmentResult : Obligations.SegmentResult := by
  intro mode s src body h1 h40 hin hlen hholds hbody hcount hout hpart
  obtain ⟨t, hexec, ht, happ⟩ := State.finish_appending
    (bs := segmentBits mode s.version.toNat (charCount mode s.arg1.toNat) body)
    (result (4 + lengthWidth mode s.version.toNat + body.length)) (result (charCount mode s.arg1.toNat)) (.inr hpart)
  rw [← exec_segCommand_checked ⟨h1, h40, hin, hlen, hholds⟩ hbody hcount hout] at hexec
  rw [segmentBits_length] at ht
  exact ⟨t, hexec, ht, happ⟩

/-- Settles O40: the checks of SegPack, each failing where the ones before it pass. -/
theorem segmentErrorsInOrder : Obligations.SegmentErrorsInOrder := by
  intro mode s
  have hfails {c : ErrCode} (h : segPack mode s = .err c) : failsWith (segCommand mode) s c := by
    rw [failsWith, exec_segCommand, h]
    exact finish_err s c
  refine ⟨fun hv => hfails ?_, fun h1 h40 => ⟨fun ho => hfails ?_, fun src hin hlen hholds => ?_⟩⟩
  · exact if_pos hv
  · rw [segPack, if_neg (State.not_versionIllegal h1 h40), State.argA, State.argB, if_pos ho]
  · have hsrc : SegmentSource s src := ⟨h1, h40, hin, hlen, hholds⟩
    refine ⟨fun hnone => hfails (segPack_unsupported hsrc hnone), fun body hbody => ⟨fun hcount => hfails ?_,
      fun hcount hout => hfails ?_⟩⟩
    · rw [segPack_of_payload hsrc hbody, if_pos hcount]
    · rw [segPack_of_payload hsrc hbody, if_neg (Nat.not_le.mpr hcount), if_pos hout]

/-- Settles O45: each of the commands, its checks passed, has bits to append. -/
theorem undefinedPartialByteFaults : Obligations.UndefinedPartialByteFaults := by
  intro s hf hm hr
  refine ⟨fun hpos hn hin => ?_, fun hlen hin => ?_, fun mode src body h1 h40 hin hlen hholds hbody hcount hout => ?_⟩
  · have hne : bits s.arg0.toNat s.arg1.toNat ≠ [] := by
      rwa [← List.length_pos_iff, bits_length]
    rw [exec_bsPut_checked hn hin]
    exact State.finish_appending_undefined _ _ hf hne hm hr
  · have hne : finalBits s.bsLen.toNat s.arg0.toNat ≠ [] := by
      have htotal := finalBits_length (len := s.bsLen.toNat) (c := s.arg0.toNat) hlen
      rw [← List.length_pos_iff]
      omega
    rw [exec_bsFinal_checked hlen hin]
    exact State.finish_appending_undefined _ _ hf hne hm hr
  · rw [exec_segCommand_checked ⟨h1, h40, hin, hlen, hholds⟩ hbody hcount hout]
    exact State.finish_appending_undefined _ _ hf (segmentBits_ne_nil _ _ _ _) hm hr

end Sys2Proof.Machine
end

section
/-! PROOFS. Every step keeps the bit stream inside M and its bytes defined (44_packer.md R200, R201): a step clears the
stream, leaves it where it is, or appends bits that end inside M. -/

namespace Sys2Proof.Machine

open Sys2Proof Sys2Proof.Claims

/-- What a step may do to the bit stream. -/
inductive StreamChange (s t : State) : Prop where
  /-- The stream is empty after it (10_state.md R28, 44_packer.md R210, 70_reset_and_hazards.md R330). -/
  | cleared (hlen : t.bsLen = 0)
  /-- The stream stays in its place, while bytes may be stored in M. -/
  | kept (hstores : StoresInside s t) (hbase : t.bsBase = s.bsBase) (hlen : t.bsLen = s.bsLen)
  /-- Bits that end inside M are appended (44_packer.md R201). -/
  | appended (bs : List Bool) (hparams : t.params = s.params) (hin : ¬s.streamOutside bs.length)
      (hlen : t.bsLen = .ofNat 32 (s.bsLen.toNat + bs.length)) (happ : Appends s t bs)

/-- StreamChange is about the parameters, the stream's registers and M of the later state alone. -/
theorem StreamChange.congr {s t u : State} (h : StreamChange s t) (hp : u.params = t.params) (hb : u.bsBase = t.bsBase)
    (hl : u.bsLen = t.bsLen) (hm : u.mem = t.mem) : StreamChange s u := by
  cases h with
  | cleared hlen => exact .cleared (hl.trans hlen)
  | kept hstores hbase hlen => exact .kept (hstores.congr hp hm) (hb.trans hbase) (hl.trans hlen)
  | appended bs hparams hin hlen happ =>
    exact .appended bs (hp.trans hparams) hin (hl.trans hlen) (appends_congr happ hm hb)

/-- M and the stream's registers untouched. -/
theorem streamChange_of_eq {s t : State} (hp : t.params = s.params) (hb : t.bsBase = s.bsBase) (hl : t.bsLen = s.bsLen)
    (hm : t.mem = s.mem) : StreamChange s t :=
  .kept (storesInside_of_mem_eq hp hm) hb hl

/-! What the changes keep. -/

/-- Storing a run of bytes makes no byte undefined (20_memory.md R61). -/
theorem StoresInside.keeps_defined {s t : State} (h : StoresInside s t) {a : Nat} (ha : s.mem.read a ≠ none) :
    t.mem.read a ≠ none := by
  obtain ⟨x, vs, -, hm⟩ := h.mem
  rw [hm]
  exact Memory.read_writeBytes_defined x vs ha

/-- A byte of M is defined where a bit of the stream can be read from it. -/
theorem streamBitAt_ne_none {s : State} {p : Nat} :
    streamBitAt s p ≠ none ↔ s.mem.read (s.bsBase.toNat + p / 8) ≠ none := by
  simp [streamBitAt]

/-- With legal parameters the length of a stream inside M fits BS_LEN (00_scope.md R6). -/
theorem State.toNat_bsLen_of_inside {s : State} {n : Nat} (hp : s.params.Legal)
    (hin : ¬s.outside s.bsBase.toNat (bytesFor n)) : (BitVec.ofNat 32 n).toNat = n := by
  obtain ⟨⟨-, hmax⟩, -⟩ := hp
  simp only [bytesFor] at hin
  rw [BitVec.toNat_ofNat]
  omega

/-- After each of the three changes the stream lies inside M with its bytes defined. -/
theorem State.StreamSound.of_change {s t : State} (h : s.StreamSound) (hp : s.params.Legal) (hc : StreamChange s t) :
    t.StreamSound := by
  cases hc with
  | cleared hlen => exact ⟨fun h0 => absurd hlen h0, fun p hpos => by simp [hlen] at hpos⟩
  | kept hstores hbase hlen =>
    constructor <;> rw [hbase, hlen]
    · rw [hstores.params]
      exact h.fits
    · exact fun p hpos => hstores.keeps_defined (h.defined p hpos)
  | appended bs hparams hin hlen happ =>
    obtain ⟨hbase, hnew, -, hold, -⟩ := happ
    have hlen : t.bsLen.toNat = s.bsLen.toNat + bs.length := hlen ▸ State.toNat_bsLen_of_inside hp hin
    constructor <;> rw [hlen]
    · rw [hbase, hparams]
      exact fun _ => Nat.not_lt.mp hin
    · intro p hpos
      rw [← streamBitAt_ne_none]
      by_cases hp : p < s.bsLen.toNat
      · rw [hold p hp, streamBitAt_ne_none]
        exact h.defined p hp
      · have hbit := hnew (p - s.bsLen.toNat) (by omega)
        rw [Nat.add_sub_cancel' (Nat.not_lt.mp hp)] at hbit
        simp [hbit]

/-! The commands. -/

/-- What a command performed in s may have done to the stream when it succeeds. -/
def Execution.ChangesStream (s : State) : Execution → Prop
  | .ok t => StreamChange s t
  | .err _ | .fault _ => True

theorem changesStream_check {s : State} {c : Prop} [Decidable c] {code : ErrCode} {e : Execution}
    (h : ¬c → e.ChangesStream s) : (if c then .err code else e : Execution).ChangesStream s := by
  split
  · trivial
  · exact h ‹_›

/-- WriteBits of bits that end inside M (44_packer.md R201). -/
theorem streamChange_of_writeBits {s t : State} {bs : List Bool} (hin : ¬s.streamOutside bs.length)
    (h : s.writeBits bs = .ok t) : StreamChange s t := by
  obtain ⟨hframe, happ⟩ := State.writeBits_appends h
  rw [hframe] at happ ⊢
  exact .appended bs rfl hin rfl happ

theorem State.appending_changesStream {s : State} {bs : List Bool} (r0 r1 : Word) (hin : ¬s.streamOutside bs.length) :
    (s.appending bs r0 r1).ChangesStream s := by
  unfold State.appending
  split
  · trivial
  · rename_i t ht
    exact (streamChange_of_writeBits hin ht).congr rfl rfl rfl rfl

theorem segPack_changesStream (mode : Mode) (s : State) : (segPack mode s).ChangesStream s := by
  cases he : segPack mode s with
  | ok u =>
    obtain ⟨-, -, src, body, t, -, -, -, hin, ht, rfl⟩ := segPack_ok he
    exact (streamChange_of_writeBits hin ht).congr rfl rfl rfl rfl
  | err c => trivial
  | fault f => trivial

/-- The commands that write BS_LEN clear the stream or append to it (44_packer.md R210 to R216). -/
theorem exec_changesStream {i : Instr} (s : State) (hi : writesStreamLength i = true) :
    ∃ e, exec i s = finish s e ∧ e.ChangesStream s := by
  cases i
  case bsClear => exact ⟨.ok _, rfl, StreamChange.cleared rfl⟩
  case bsPut =>
    refine ⟨_, exec_bsPut s, changesStream_check fun _ => changesStream_check fun hin => ?_⟩
    exact State.appending_changesStream _ _ (by rwa [bits_length])
  case bsFinal =>
    refine ⟨_, exec_bsFinal s, changesStream_check fun hlen => changesStream_check fun ho => ?_⟩
    exact State.appending_changesStream _ _ (State.finalBits_inside (Nat.not_lt.mp hlen) ho)
  case segNum | segAlnum | segByte | segKanji => exact ⟨_, rfl, segPack_changesStream _ s⟩
  all_goals cases hi

/-- A command that does not write BS_LEN stores to M at most; one that fails or faults leaves the stream as it is. -/
theorem exec_streamChange {i : Instr} {s t : State} (h : exec i s = .next t) : StreamChange s t := by
  cases hi : writesStreamLength i with
  | false =>
    obtain ⟨-, -, hlen, -⟩ := onlyOwnersWriteStores i s t h
    obtain ⟨-, -, -, -, -, -, -, hbase, -⟩ := commandsKeepHostRegisters i s t h
    exact .kept (exec_storesInside h) hbase (hlen hi)
  | true =>
    obtain ⟨e, he, hc⟩ := exec_changesStream s hi
    rw [he] at h
    obtain ⟨u, rfl, rfl⟩ | ⟨c, -, rfl⟩ | ⟨f, -, rfl⟩ := finish_next_iff.mp h
    · exact StreamChange.congr hc rfl rfl rfl rfl
    · exact streamChange_of_eq rfl rfl rfl rfl
    · exact streamChange_of_eq rfl rfl rfl rfl

/-! The turns. -/

theorem writeReg_streamChange (s : State) (r : HostReg) (w : Word) : StreamChange s (s.writeReg r w) := by
  cases r
  case bsBase => exact .cleared rfl
  all_goals exact streamChange_of_eq rfl rfl rfl rfl

theorem hostAccess_streamChange (s : State) (a : HostAccess) : StreamChange s (s.hostAccess a) := by
  have hstores := hostAccess_storesInside s a
  obtain ⟨w, h⟩ | ⟨r, w, h⟩ | ⟨x, b, -, h⟩ | ⟨f, h⟩ := s.hostAccess_cases a <;> rw [h] at hstores ⊢
  · exact .kept hstores rfl rfl
  · exact writeReg_streamChange s r w
  · exact .kept hstores rfl rfl
  · exact .kept hstores rfl rfl

theorem State.StreamSound.programStep {s : State} (h : s.StreamSound) (hp : s.params.Legal) :
    s.programStep.StreamSound := by
  obtain ⟨-, hs⟩ | ⟨a, rest, -, hs⟩ | ⟨rest, -, hs⟩ | ⟨rest, -, hs⟩ := programStep_cases s <;> rw [hs]
  · exact h
  · have hprogram : (s.withProgram rest).StreamSound := ⟨h.fits, h.defined⟩
    exact hprogram.of_change hp (hostAccess_streamChange _ a)
  · exact ⟨h.fits, h.defined⟩
  · split <;> exact ⟨h.fits, h.defined⟩

theorem State.StreamSound.engineTurn {s t : State} (h : s.StreamSound) (hp : s.params.Legal)
    (hturn : engineTurn s = .next t) : t.StreamSound := by
  obtain ⟨-, he⟩ | ⟨-, i, -, he⟩ | ⟨-, r, -, he⟩ := engineTurn_cases s <;> rw [he] at hturn
  · cases hturn
    exact h
  · exact h.of_change hp (exec_streamChange hturn)
  · cases hturn
    exact ⟨h.fits, h.defined⟩

/-- Settles O59: each turn but the reset input keeps a sound stream, and the reset input clears it. -/
theorem stepKeepsStreamSound : Obligations.StepKeepsStreamSound := by
  intro s t hp h hstep
  have hturns (rest : List Turn) : (s.withTurns rest).StreamSound := ⟨h.fits, h.defined⟩
  obtain ⟨rest, -, hs⟩ | ⟨f, -, hs⟩ | ⟨a, rest, -, -, hs⟩ | ⟨rest, -, -, hs⟩ | ⟨rest, -, -, hs⟩ := step_cases s <;>
    rw [hs] at hstep
  · cases hstep
    exact h.of_change hp (.cleared rfl)
  · cases hstep
  · cases hstep
    exact (hturns rest).of_change hp (hostAccess_streamChange _ a)
  · cases hstep
    exact (hturns rest).programStep hp
  · exact (hturns rest).engineTurn hp hstep

end Sys2Proof.Machine
end

section
/-! PROOFS. The payloads of the four modes (44_packer.md R202 to R209, R217 to R219): the model's payload walks the source and
fails at an unsupported character; the rules' payload goes through the groups of the source. -/

namespace Sys2Proof.Machine

open Sys2Proof Sys2Proof.Claims

/-! Bit strings. -/

theorem bits_eq_msbFirst (v w : Nat) : bits v w = msbFirst v w := by
  induction w with
  | zero => rfl
  | succ w ih =>
    rw [msbFirst, ← ih]
    simp only [bits, List.range_succ_eq_map, List.map_cons, List.map_map, Nat.add_sub_cancel, Nat.sub_zero]
    congr 1
    refine List.map_congr_left fun i _ => ?_
    rw [Function.comp_apply, Nat.succ_eq_add_one, Nat.sub_sub, Nat.add_comm 1 i]

/-! Groups. -/

@[simp] theorem groupsOf_nil {k : Nat} (hk : 0 < k) : groupsOf k [] = [] := by
  have hcount : (k - 1) / k = 0 := Nat.div_eq_of_lt (by omega)
  simp [groupsOf, hcount]

/-- A last group of fewer than k bytes. -/
theorem groupsOf_short {k : Nat} {g : List Byte} (hne : g ≠ []) (hg : g.length ≤ k) : groupsOf k g = [g] := by
  have hpos : 0 < g.length := List.length_pos_iff.mpr hne
  have hcount : (g.length + k - 1) / k = 1 := by
    rw [Nat.div_eq_iff (by omega)]
    omega
  simp [groupsOf, hcount, List.take_of_length_le hg]

/-- A full group, and the groups of what follows it. -/
theorem groupsOf_append {k : Nat} {g : List Byte} (hk : 0 < k) (hg : g.length = k) (rest : List Byte) :
    groupsOf k (g ++ rest) = g :: groupsOf k rest := by
  have hcount : ((g ++ rest).length + k - 1) / k = (rest.length + k - 1) / k + 1 := by
    rw [List.length_append, hg, Nat.add_assoc, Nat.add_sub_assoc (by omega), Nat.add_comm k, Nat.add_div_right _ hk]
  simp only [groupsOf, hcount, List.range_succ_eq_map, List.map_cons, List.map_map]
  congr 1
  · simp [← hg]
  · refine List.map_congr_left fun i _ => ?_
    rw [Function.comp_apply, Nat.mul_succ, Nat.add_comm, ← hg, List.drop_length_add_append]

theorem groupsOf_two (lead trail : Byte) (rest : List Byte) :
    groupsOf 2 (lead :: trail :: rest) = [lead, trail] :: groupsOf 2 rest :=
  groupsOf_append (g := [lead, trail]) (Nat.succ_pos _) rfl rest

theorem groupsOf_three (a b c : Byte) (rest : List Byte) :
    groupsOf 3 (a :: b :: c :: rest) = [a, b, c] :: groupsOf 3 rest :=
  groupsOf_append (g := [a, b, c]) (Nat.succ_pos _) rfl rest

/-! Characters. -/

/-- codesOf succeeds when the code is one of the characters with a property, and all of them have it. -/
theorem codesOf_eq {code : Byte → Option Nat} {P : Byte → Prop} [DecidablePred P] {f : Byte → Nat}
    (hcode : ∀ b, code b = if P b then some (f b) else none) (src : List Byte) :
    codesOf code src = if ∀ b ∈ src, P b then some (src.map f) else none := by
  induction src with
  | nil => simp [codesOf]
  | cons b rest ih =>
    simp only [codesOf, hcode b, ih, List.forall_mem_cons, List.map_cons]
    by_cases hb : P b
    · by_cases hrest : ∀ c ∈ rest, P c
      · simp only [if_pos hb, if_pos hrest, if_pos (And.intro hb hrest)]
      · simp only [if_pos hb, if_neg hrest, if_neg (mt And.right hrest)]
    · simp only [if_neg hb, if_neg (mt And.left hb)]

theorem codesOf_length {code : Byte → Option Nat} {src : List Byte} {cs : List Nat} (h : codesOf code src = some cs) :
    cs.length = src.length := by
  induction src generalizing cs with
  | nil => cases h; rfl
  | cons b rest ih =>
    simp only [codesOf] at h
    split at h
    · cases h
      simp [ih ‹_›]
    · cases h

theorem digitCode_eq (b : Byte) :
    digitCode b = if 0x30 ≤ b.toNat ∧ b.toNat ≤ 0x39 then some (b.toNat - 0x30) else none := rfl

/-- The characters of the alphanumeric mode and their codes (44_packer.md R206), byte by byte. -/
theorem alnumCode_nibbles : ∀ hi < 16, ∀ lo < 16, alnumCode (.ofNat 8 (16 * hi + lo)) =
    if 16 * hi + lo ∈ alphabet then some (alphabet.idxOf (16 * hi + lo)) else none := by
  decide

theorem alnumCode_eq (b : Byte) :
    alnumCode b = if b.toNat ∈ alphabet then some (alphabet.idxOf b.toNat) else none := by
  have h := alnumCode_nibbles (b.toNat / 16) (by omega) (b.toNat % 16) (Nat.mod_lt _ (by decide))
  rwa [Nat.div_add_mod, BitVec.ofNat_toNat, BitVec.setWidth_eq] at h

/-- The double-byte characters of the Kanji mode and their values (44_packer.md R218). -/
theorem kanjiValue_eq (c : Nat) : kanjiValue c = if isKanjiCode c then some (kanjiNumber c) else none := by
  by_cases htrail : c % 256 < 0x40 ∨ 0xFC < c % 256
  · rw [if_neg (by omega)]
    simp only [kanjiValue, if_pos htrail]
  simp only [kanjiValue, if_neg htrail]
  by_cases hlow : 0x8140 ≤ c ∧ c ≤ 0x9FFC
  · rw [if_pos hlow, if_pos ⟨by omega, by omega, .inl hlow⟩, kanjiNumber, if_pos hlow.2]
  by_cases hhigh : 0xE040 ≤ c ∧ c ≤ 0xEBBF
  · rw [if_neg hlow, if_pos hhigh, if_pos ⟨by omega, by omega, .inr hhigh⟩, kanjiNumber, if_neg (by omega)]
  · rw [if_neg hlow, if_neg hhigh, if_neg (by omega)]

theorem kanjiValue_eq_some {c x : Nat} (h : kanjiValue c = some x) : isKanjiCode c ∧ kanjiNumber c = x := by
  rw [kanjiValue_eq] at h
  split at h
  · exact ⟨‹_›, Option.some.inj h⟩
  · cases h

/-- Settles O42: the trail byte, rebased, is below 0xC0, so the value tells the two parts it is made of. -/
theorem kanjiValuesFitAndDiffer : Obligations.KanjiValuesFitAndDiffer := by
  refine ⟨fun c x h => ?_, fun c c' x h h' => ?_⟩
  · obtain ⟨hc, rfl⟩ := kanjiValue_eq_some h
    unfold kanjiNumber
    dsimp only
    split <;> omega
  · obtain ⟨hc, hx⟩ := kanjiValue_eq_some h
    obtain ⟨hc', hx'⟩ := kanjiValue_eq_some h'
    unfold kanjiNumber at hx hx'
    dsimp only at hx hx'
    split at hx <;> split at hx' <;> omega

/-! The payload of each mode is that of the rules. -/

theorem numPayload_eq : ∀ src : List Byte, numPayload (src.map fun b => b.toNat - 0x30) = payloadBits .numeric src
  | [] => by simp [numPayload, payloadBits]
  | [a] => by simp [numPayload, payloadBits, groupsOf_short, bits_eq_msbFirst]
  | [a, b] => by simp [numPayload, payloadBits, groupsOf_short, bits_eq_msbFirst, Nat.mul_comm]
  | a :: b :: c :: rest => by
    have hvalue (x y z : Nat) : x * 100 + y * 10 + z = 10 * (10 * x + y) + z := by omega
    have ih := numPayload_eq rest
    rw [payloadBits] at ih ⊢
    simp [numPayload, groupsOf_three, ih, bits_eq_msbFirst, hvalue]

theorem alnumPayload_eq : ∀ src : List Byte,
    alnumPayload (src.map fun b => alphabet.idxOf b.toNat) = payloadBits .alphanumeric src
  | [] => by simp [alnumPayload, payloadBits]
  | [a] => by simp [alnumPayload, payloadBits, groupsOf_short, bits_eq_msbFirst]
  | a :: b :: rest => by
    have ih := alnumPayload_eq rest
    rw [payloadBits] at ih ⊢
    simp [alnumPayload, groupsOf_two, ih, bits_eq_msbFirst, Nat.mul_comm]

theorem bytePayload_eq (src : List Byte) : bytePayload src = payloadBits .byte src := by
  simp only [bytePayload, payloadBits, bits_eq_msbFirst]

theorem pairCode_pair (lead trail : Byte) : pairCode [lead, trail] = lead.toNat * 256 + trail.toNat := by
  simp [pairCode, Nat.mul_comm]

/-- A source of the Kanji mode is supported when its first character and the rest are. -/
theorem supported_kanji_cons (lead trail : Byte) (rest : List Byte) :
    Supported .kanji (lead :: trail :: rest) ↔
      isKanjiCode (lead.toNat * 256 + trail.toNat) ∧ Supported .kanji rest := by
  simp only [Supported, groupsOf_two, List.forall_mem_cons, pairCode_pair, List.length_cons]
  rw [show (rest.length + 1 + 1) % 2 = rest.length % 2 by omega]
  tauto

theorem kanjiPayload_of_supported : ∀ {src : List Byte}, Supported .kanji src →
    kanjiPayload src = some (payloadBits .kanji src)
  | [], _ => by simp [kanjiPayload, payloadBits]
  | [_], ⟨heven, _⟩ => by cases heven
  | lead :: trail :: rest, h => by
    obtain ⟨hcode, hrest⟩ := (supported_kanji_cons lead trail rest).mp h
    have ih := kanjiPayload_of_supported hrest
    rw [kanjiPayload, kanjiValue_eq, if_pos hcode, ih]
    simp [payloadBits, groupsOf_two, pairCode_pair, bits_eq_msbFirst]

theorem kanjiPayload_of_not_supported : ∀ {src : List Byte}, ¬Supported .kanji src → kanjiPayload src = none
  | [], h => absurd ⟨rfl, by simp⟩ h
  | [_], _ => rfl
  | lead :: trail :: rest, h => by
    rw [supported_kanji_cons, not_and_or] at h
    obtain hcode | hrest := h
    · rw [kanjiPayload, kanjiValue_eq, if_neg hcode]
    · rw [kanjiPayload, kanjiPayload_of_not_supported hrest]
      cases kanjiValue (lead.toNat * 256 + trail.toNat) <;> rfl

theorem payload_of_supported {mode : Mode} {src : List Byte} (h : Supported mode src) :
    payload mode src = some (payloadBits mode src) := by
  cases mode with
  | numeric =>
    rw [Supported] at h
    rw [payload, codesOf_eq digitCode_eq, if_pos h, Option.map_some, numPayload_eq]
  | alphanumeric =>
    rw [Supported] at h
    rw [payload, codesOf_eq alnumCode_eq, if_pos h, Option.map_some, alnumPayload_eq]
  | byte => exact congrArg some (bytePayload_eq src)
  | kanji => exact kanjiPayload_of_supported h

theorem payload_of_not_supported {mode : Mode} {src : List Byte} (h : ¬Supported mode src) : payload mode src = none := by
  cases mode with
  | numeric =>
    rw [Supported] at h
    rw [payload, codesOf_eq digitCode_eq, if_neg h, Option.map_none]
  | alphanumeric =>
    rw [Supported] at h
    rw [payload, codesOf_eq alnumCode_eq, if_neg h, Option.map_none]
  | byte => exact absurd trivial h
  | kanji => exact kanjiPayload_of_not_supported h

theorem payload_ne_none_iff {mode : Mode} {src : List Byte} : payload mode src ≠ none ↔ Supported mode src := by
  constructor
  · exact not_imp_comm.mp payload_of_not_supported
  · intro h
    simp [payload_of_supported h]

/-! The lengths of the payloads (44_packer.md R217). -/

theorem numPayload_length : ∀ cs : List Nat,
    (numPayload cs).length = 10 * (cs.length / 3) + [0, 4, 7].getD (cs.length % 3) 0
  | [] => rfl
  | [_] => by simp [numPayload]
  | [_, _] => by simp [numPayload]
  | _ :: _ :: _ :: rest => by
    have ih := numPayload_length rest
    simp only [numPayload, List.length_append, bits_length, ih, List.length_cons]
    rw [show rest.length + 1 + 1 + 1 = rest.length + 3 from rfl, Nat.add_mod_right, Nat.add_div_right _ (by decide)]
    omega

theorem alnumPayload_length : ∀ cs : List Nat, (alnumPayload cs).length = 11 * (cs.length / 2) + 6 * (cs.length % 2)
  | [] => rfl
  | [_] => by simp [alnumPayload]
  | _ :: _ :: rest => by
    have ih := alnumPayload_length rest
    simp only [alnumPayload, List.length_append, bits_length, ih, List.length_cons]
    omega

theorem bytePayload_length (src : List Byte) : (bytePayload src).length = 8 * src.length := by
  simp [bytePayload, List.length_flatMap, Nat.mul_comm]

theorem kanjiPayload_length : ∀ {src : List Byte} {body : List Bool}, kanjiPayload src = some body →
    src.length % 2 = 0 ∧ body.length = 13 * (src.length / 2)
  | [], _, h => by cases h; exact ⟨rfl, rfl⟩
  | [_], _, h => by cases h
  | lead :: trail :: rest, body, h => by
    rw [kanjiPayload] at h
    split at h
    · rename_i v bs _ hbs
      obtain ⟨heven, hlen⟩ := kanjiPayload_length hbs
      cases h
      simp only [List.length_append, bits_length, hlen, List.length_cons]
      omega
    · cases h

/-- A payload made of one code per character. -/
theorem payload_of_codes {code : Byte → Option Nat} {f : List Nat → List Bool} {src : List Byte} {body : List Bool}
    (h : (codesOf code src).map f = some body) : ∃ cs, cs.length = src.length ∧ f cs = body := by
  obtain ⟨cs, hcs, hf⟩ := Option.map_eq_some_iff.mp h
  exact ⟨cs, codesOf_length hcs, hf⟩

theorem lengthWidth_eq_band (mode : Mode) (v : Nat) :
    lengthWidth mode v = (widthBands mode).getD (if v ≤ 9 then 0 else if v ≤ 26 then 1 else 2) 0 := by
  by_cases h9 : v ≤ 9
  · cases mode <;> simp [lengthWidth, widthBands, h9]
  · by_cases h26 : v ≤ 26 <;> cases mode <;> simp [lengthWidth, widthBands, h9, h26]

/-- Settles O41: the payload of each mode is that of its groups, and the fields of the header are those of the tables. -/
theorem payloadsAndHeaderFields : Obligations.PayloadsAndHeaderFields := by
  refine ⟨fun mode src => ⟨payload_of_supported, payload_of_not_supported⟩, bits_eq_msbFirst, rfl,
    fun mode v _ _ => lengthWidth_eq_band mode v, fun mode len => ?_, fun src => ⟨fun body h => ?_, fun body h => ?_, ?_,
    fun body h => kanjiPayload_length h, payload_ne_none_iff (mode := .numeric)⟩⟩
  · cases mode <;> rfl
  · obtain ⟨cs, hlen, rfl⟩ := payload_of_codes h
    rw [numPayload_length, hlen]
  · obtain ⟨cs, hlen, rfl⟩ := payload_of_codes h
    rw [alnumPayload_length, hlen]
  · exact ⟨_, rfl, bytePayload_length src⟩

end Sys2Proof.Machine
end

section
/-! PROOFS. The commands of the matrix and mask units (45_matrix.md R254 to R257, 46_mask.md R285, R286): how each ends, check
by check. -/

namespace Sys2Proof.Machine

open Sys2Proof Sys2Proof.Claims

/-- Settles O24: of the writes of a command that succeeds, only those of a build reach the matrix, and the other two ends
write nothing. -/
theorem onlyBuildsWriteMatrix : Obligations.OnlyBuildsWriteMatrix := by
  intro i s t h hcond hf
  obtain ⟨u, hu, rfl⟩ | ⟨c, rfl⟩ | ⟨f, rfl⟩ := exec_cases h
  · cases hu with
    | matrix _ _ cw m test x p r0 r1 hi => simp [hi, hf] at hcond
    | _ => exact ⟨rfl, rfl, rfl, rfl⟩
  · exact ⟨rfl, rfl, rfl, rfl⟩
  · exact ⟨rfl, rfl, rfl, rfl⟩

/-- Settles O50: the timing pattern sets column 6, and the traversal visits every other cell. -/
theorem renderResolvesEveryCell : Obligations.RenderResolvesEveryCell :=
  fun _ e cw m test _ _ _ hv hr hc => render_resolves e cw m test hv hr hc

/-! The ends of a build. -/

/-- A build with an illegal version is INVALID_PARAMETER (45_matrix.md R254, 46_mask.md R286). -/
theorem exec_build_invalidParameter {i : Instr} {s : State} (hi : buildsMatrix i = true) (hv : s.versionIllegal) :
    exec i s = .next (s.complete .invalidParameter) := by
  cases i with
  | mxBuild m t => simp only [exec, execMxBuild, if_pos hv, finish_err]
  | mxMake => simp only [exec, execMxMake, if_pos hv, finish_err]
  | _ => cases hi

/-- After it, codewords outside M are ADDRESS_ERROR (45_matrix.md R254, 46_mask.md R286). -/
theorem exec_build_addressError {i : Instr} {s : State} (hi : buildsMatrix i = true) (hv : ¬s.versionIllegal)
    (ho : s.outside s.argA s.argB) : exec i s = .next (s.complete .addressError) := by
  cases i with
  | mxBuild m t => simp only [exec, execMxBuild, if_neg hv, if_pos ho, finish_err]
  | mxMake => simp only [exec, execMxMake, if_neg hv, if_pos ho, finish_err]
  | _ => cases hi

/-- After it, with the codewords read, more bits than DM(v) are CAPACITY_EXCEEDED (45_matrix.md R254, 46_mask.md R286). -/
theorem exec_build_capacityExceeded {i : Instr} {s : State} {cw : List Byte} (hi : buildsMatrix i = true)
    (hv : ¬s.versionIllegal) (ho : ¬s.outside s.argA s.argB) (hread : s.mem.readBytes s.argA s.argB = .ok cw)
    (hcap : dataModules s.v < 8 * s.argB) : exec i s = .next (s.complete .capacityExceeded) := by
  cases i with
  | mxBuild m t => simp only [exec, execMxBuild, if_neg hv, if_neg ho, hread, if_pos hcap, finish_err]
  | mxMake => simp only [exec, execMxMake, if_neg hv, if_neg ho, hread, if_pos hcap, finish_err]
  | _ => cases hi

/-- MX_BUILD whose checks pass (45_matrix.md R254). -/
theorem exec_mxBuild_ok (m : BitVec 3) (t : BitVec 1) {s : State} {cw : List Byte} (hv : ¬s.versionIllegal)
    (ho : ¬s.outside s.argA s.argB) (hread : s.mem.readBytes s.argA s.argB = .ok cw)
    (hcap : ¬dataModules s.v < 8 * s.argB) :
    exec (.mxBuild m t) s = .next (State.complete .none
      { s.withMatrix (render s.v s.ecLevel cw m (t == 1)) m (if t = 1 then .test else .final) with
        res0 := result (sideOf s.v)
        res1 := result (dataModules s.v) }) := by
  simp only [exec, execMxBuild, if_neg hv, if_neg ho, hread, if_neg hcap, finish_ok]

/-- Settles O46: the codewords are read as M holds them, and no check fails. -/
theorem mxBuildResult : Obligations.MxBuildResult := by
  intro m t s cw h1 h40 hin hlen hholds hcap
  have hv : ¬s.versionIllegal := not_or.mpr ⟨Nat.not_lt.mpr h1, Nat.not_lt.mpr h40⟩
  have hread : s.mem.readBytes s.argA s.argB = .ok cw := (Memory.readBytes_ok_iff _ _ _ _).mpr ⟨hlen, hholds⟩
  exact exec_mxBuild_ok m t hv (Nat.not_lt.mpr hin) hread (Nat.not_lt.mpr hcap)

/-! MX_SCORE and MX_GET. -/

/-- MX_SCORE without a matrix is NOT_READY (46_mask.md R285). -/
theorem exec_mxScore_notReady {s : State} (h : s.mtxState = .none) : exec .mxScore s = .next (s.complete .notReady) := by
  simp only [exec, execMxScore, if_pos h, finish_err]

/-- MX_GET without a matrix is NOT_READY (45_matrix.md R255). -/
theorem exec_mxGet_notReady {s : State} (h : s.mtxState = .none) : exec .mxGet s = .next (s.complete .notReady) := by
  simp only [exec, execMxGet, if_pos h, finish_err]

/-- MX_GET outside the matrix is OUT_OF_RANGE (45_matrix.md R255). -/
theorem exec_mxGet_outOfRange {s : State} (h : s.mtxState ≠ .none)
    (ho : s.modCount.toNat ≤ s.argA ∨ s.modCount.toNat ≤ s.argB) : exec .mxGet s = .next (s.complete .outOfRange) := by
  simp only [exec, execMxGet, if_neg h, if_pos ho, finish_err]

/-- Settles O49: the checks of each command, each failing where the ones before it pass. -/
theorem matrixErrors : Obligations.MatrixErrors := by
  intro s i
  refine ⟨fun h => ⟨exec_mxScore_notReady h, exec_mxGet_notReady h⟩, exec_mxGet_outOfRange,
    fun hi => ⟨exec_build_invalidParameter hi, fun h1 h40 => ?_⟩⟩
  have hv : ¬s.versionIllegal := not_or.mpr ⟨Nat.not_lt.mpr h1, Nat.not_lt.mpr h40⟩
  refine ⟨exec_build_addressError hi hv, fun cw hin hlen hholds hcap => ?_⟩
  have hread : s.mem.readBytes s.argA s.argB = .ok cw := (Memory.readBytes_ok_iff _ _ _ _).mpr ⟨hlen, hholds⟩
  exact exec_build_capacityExceeded hi hv (Nat.not_lt.mpr hin) hread hcap

end Sys2Proof.Machine
end

section
/-! PROOFS. Steps 1 and 2 of a render (45_matrix.md R242 to R244). A list of writes gives a cell the value that the
writes of it agree on, and the finder patterns and the alignment patterns come to one such list. -/

namespace Sys2Proof.Machine

open Sys2Proof Sys2Proof.Claims

/-! Lists of writes. -/

theorem putAll_cons (g : Grid) (w : CellWrite) (ws : List CellWrite) :
    putAll g (w :: ws) = putAll (g.put w.1 w.2.1 w.2.2) ws := rfl

theorem putAll_append (g : Grid) (ws ws' : List CellWrite) : putAll g (ws ++ ws') = putAll (putAll g ws) ws' :=
  List.foldl_append

/-- A cell that no write names keeps its value. -/
theorem get_putAll_of_not_mem {g : Grid} {ws : List CellWrite} {r c : Nat} (h : ∀ x, (r, c, x) ∉ ws) :
    (putAll g ws).get r c = g.get r c := by
  induction ws generalizing g with
  | nil => rfl
  | cons w ws ih =>
    rw [putAll_cons, ih fun x hx => h x (List.mem_cons_of_mem _ hx)]
    refine Grid.get_put_other _ _ ?_
    rintro ⟨rfl, rfl⟩
    exact h _ List.mem_cons_self

/-- A cell holds the value that every write of it has. -/
theorem get_putAll_of_mem {g : Grid} {ws : List CellWrite} {r c : Nat} {x : Bool} (hr : r < 177) (hc : c < 177)
    (hmem : (r, c, x) ∈ ws) (hall : ∀ y, (r, c, y) ∈ ws → y = x) : (putAll g ws).get r c = .ofBool x := by
  induction ws generalizing g with
  | nil => cases hmem
  | cons w ws ih =>
    rw [putAll_cons]
    by_cases hlater : ∃ y, (r, c, y) ∈ ws
    · obtain ⟨y, hy⟩ := hlater
      have hyx := hall y (List.mem_cons_of_mem _ hy)
      exact ih (hyx ▸ hy) fun z hz => hall z (List.mem_cons_of_mem _ hz)
    · obtain rfl : (r, c, x) = w := (List.mem_cons.mp hmem).resolve_right fun h => hlater ⟨x, h⟩
      rw [get_putAll_of_not_mem fun y hy => hlater ⟨y, hy⟩]
      exact Grid.get_put_same _ _ hr hc

/-- After PutIfUnset of a list of writes, an unset cell holds the value that every write of it has. -/
theorem get_putAllIfUnset_of_mem {g : Grid} {ws : List CellWrite} {r c : Nat} {x : Bool} (hr : r < 177) (hc : c < 177)
    (hg : g.get r c = .unset) (hmem : (r, c, x) ∈ ws) (hall : ∀ y, (r, c, y) ∈ ws → y = x) :
    (putAllIfUnset g ws).get r c = .ofBool x := by
  induction ws generalizing g with
  | nil => cases hmem
  | cons w ws ih =>
    show (putAllIfUnset (g.putIfUnset w.1 w.2.1 w.2.2) ws).get r c = _
    by_cases hw : w.1 = r ∧ w.2.1 = c
    · obtain ⟨rfl, rfl⟩ := hw
      have hput : (g.putIfUnset w.1 w.2.1 w.2.2).get w.1 w.2.1 = .ofBool x := by
        rw [Grid.putIfUnset, if_pos hg, Grid.get_put_same _ _ hr hc, hall w.2.2 List.mem_cons_self]
      rw [putAllIfUnset_keeps ws (by simp [hput]), hput]
    · have hg' : (g.putIfUnset w.1 w.2.1 w.2.2).get r c = .unset := by
        unfold Grid.putIfUnset
        split
        · rw [Grid.get_put_other _ _ (by tauto), hg]
        · exact hg
      refine ih hg' ((List.mem_cons.mp hmem).resolve_left ?_) fun y hy => hall y (List.mem_cons_of_mem _ hy)
      rintro rfl
      exact hw ⟨rfl, rfl⟩

/-- A cell that no write names keeps its value under PutIfUnset. -/
theorem get_putAllIfUnset_of_not_mem {g : Grid} {ws : List CellWrite} {r c : Nat} (h : ∀ x, (r, c, x) ∉ ws) :
    (putAllIfUnset g ws).get r c = g.get r c := by
  induction ws generalizing g with
  | nil => rfl
  | cons w ws ih =>
    show (putAllIfUnset (g.putIfUnset w.1 w.2.1 w.2.2) ws).get r c = _
    rw [ih fun x hx => h x (List.mem_cons_of_mem _ hx), Grid.putIfUnset]
    split
    · refine Grid.get_put_other _ _ ?_
      rintro ⟨rfl, rfl⟩
      exact h _ List.mem_cons_self
    · rfl

/-- A cell is set after a list of writes when it was set before or a write names it. -/
theorem putAll_set_iff {g : Grid} {ws : List CellWrite} {r c : Nat} (hr : r < 177) (hc : c < 177) :
    (putAll g ws).get r c ≠ .unset ↔ g.get r c ≠ .unset ∨ ∃ x, (r, c, x) ∈ ws := by
  by_cases h : ∃ x, (r, c, x) ∈ ws
  · obtain ⟨x, hx⟩ := h
    exact iff_of_true (putAll_sets (w := (r, c, x)) hx hr hc) (.inr ⟨x, hx⟩)
  · rw [get_putAll_of_not_mem (not_exists.mp h), or_iff_left h]

/-- The same for PutIfUnset. -/
theorem putAllIfUnset_set_iff {g : Grid} {ws : List CellWrite} {r c : Nat} (hr : r < 177) (hc : c < 177) :
    (putAllIfUnset g ws).get r c ≠ .unset ↔ g.get r c ≠ .unset ∨ ∃ x, (r, c, x) ∈ ws := by
  by_cases h : ∃ x, (r, c, x) ∈ ws
  · obtain ⟨x, hx⟩ := h
    exact iff_of_true (putAllIfUnset_sets (w := (r, c, x)) hx hr hc) (.inr ⟨x, hx⟩)
  · rw [get_putAllIfUnset_of_not_mem (not_exists.mp h), or_iff_left h]

/-! The writes of finder and alignment patterns. -/

/-- The cells up to ring k are a square. -/
theorem ringOf_le_iff {r0 c0 half r c k : Nat} :
    ringOf r0 c0 half r c ≤ k ↔
      (r0 + half ≤ r + k ∧ r ≤ r0 + half + k) ∧ c0 + half ≤ c + k ∧ c ≤ c0 + half + k := by
  simp only [ringOf, Nat.max_le, Nat.sub_le_iff_le_add]
  omega

theorem mem_intsFrom {lo x : Int} {n : Nat} : x ∈ intsFrom lo n ↔ lo ≤ x ∧ x < lo + n := by
  have hlist : intsFrom lo n = (List.range n).map fun (i : Nat) => lo + (i : Int) := by
    simp [intsFrom, ← List.map_eq_flatMap]
  simp only [hlist, List.mem_map, List.mem_range]
  constructor
  · rintro ⟨i, hi, rfl⟩
    omega
  · rintro ⟨hlo, hhi⟩
    exact ⟨(x - lo).toNat, by omega, by omega⟩

/-- A finder is dark off the rings at distance 2 and 4 from its centre (45_matrix.md R242). -/
theorem finderDark_eq {r0 c0 r c : Nat} (h : ringOf r0 c0 3 r c ≤ 4) :
    finderDark ((r : Int) - r0) ((c : Int) - c0) = decide (ringOf r0 c0 3 r c ≠ 2 ∧ ringOf r0 c0 3 r c ≠ 4) := by
  rw [Bool.eq_iff_iff, decide_eq_true_iff]
  simp only [finderDark, ringOf, Bool.or_eq_true, Bool.and_eq_true, decide_eq_true_iff, beq_iff_eq] at h ⊢
  omega

/-- A finder with its separator is its cells in the symbol up to ring 4 (45_matrix.md R242). -/
theorem mem_finderWrites {n r0 c0 r c : Nat} {x : Bool} :
    (r, c, x) ∈ finderWrites n r0 c0 ↔
      r < n ∧ c < n ∧ ringOf r0 c0 3 r c ≤ 4 ∧ x = decide (ringOf r0 c0 3 r c ≠ 2 ∧ ringOf r0 c0 3 r c ≠ 4) := by
  simp only [finderWrites, List.mem_flatMap, mem_intsFrom]
  constructor
  · rintro ⟨dr, hdr, dc, hdc, hmem⟩
    split at hmem
    · simp only [List.mem_singleton, Prod.mk.injEq] at hmem
      obtain ⟨hr, hc, hx⟩ := hmem
      obtain rfl : dr = (r : Int) - r0 := by omega
      obtain rfl : dc = (c : Int) - c0 := by omega
      have hring : ringOf r0 c0 3 r c ≤ 4 := ringOf_le_iff.mpr (by omega)
      exact ⟨by omega, by omega, hring, hx.trans (finderDark_eq hring)⟩
    · cases hmem
  · rintro ⟨hr, hc, hring, rfl⟩
    have hsides := ringOf_le_iff.mp hring
    refine ⟨(r : Int) - r0, by omega, (c : Int) - c0, by omega, ?_⟩
    rw [if_pos (by omega), List.mem_singleton, finderDark_eq hring]
    simp only [Prod.mk.injEq, and_true]
    omega

/-- An alignment pattern is its cells up to ring 2, light on ring 1 (45_matrix.md R244). -/
theorem mem_alignmentWrites {r0 c0 r c : Nat} {x : Bool} (hr0 : 2 ≤ r0) (hc0 : 2 ≤ c0) :
    (r, c, x) ∈ alignmentWrites r0 c0 ↔ ringOf r0 c0 0 r c ≤ 2 ∧ x = decide (ringOf r0 c0 0 r c ≠ 1) := by
  simp only [alignmentWrites, List.mem_flatMap, List.mem_map, mem_intsFrom, Prod.mk.injEq]
  have hdark {dr dc : Int} (hdr : (r : Int) = r0 + dr) (hdc : (c : Int) = c0 + dc) (hring : ringOf r0 c0 0 r c ≤ 2) :
      (dr.natAbs == 2 || dc.natAbs == 2 || (dr == 0 && dc == 0)) = decide (ringOf r0 c0 0 r c ≠ 1) := by
    rw [Bool.eq_iff_iff, decide_eq_true_iff]
    simp only [ringOf, Bool.or_eq_true, Bool.and_eq_true, beq_iff_eq] at hring ⊢
    omega
  constructor
  · rintro ⟨dr, hdr, dc, hdc, hr, hc, rfl⟩
    have hring : ringOf r0 c0 0 r c ≤ 2 := ringOf_le_iff.mpr (by omega)
    exact ⟨hring, hdark (by omega) (by omega) hring⟩
  · rintro ⟨hring, rfl⟩
    have hsides := ringOf_le_iff.mp hring
    exact ⟨(r : Int) - r0, by omega, (c : Int) - c0, by omega, by omega, by omega, hdark (by omega) (by omega) hring⟩

/-! The positions of the alignment patterns (45_matrix.md R243). -/

theorem alignOf_eq : ∀ v, 1 ≤ v → v ≤ 40 → alignOf v = alignPositions v := by decide

/-- Positions are even, from 6 to 4·v + 10, and two of them are 12 apart or more. -/
theorem alignPositions_spaced : ∀ v ≤ 40, ∀ a ∈ alignPositions v,
    a % 2 = 0 ∧ 6 ≤ a ∧ a ≤ 4 * v + 10 ∧ (a ≠ 6 → 18 ≤ a) ∧ (a ≠ 4 * v + 10 → a + 12 ≤ 4 * v + 10) ∧
      ∀ b ∈ alignPositions v, a < b → a + 12 ≤ b := by decide

theorem alignPositions_nodup : ∀ v ≤ 40, (alignPositions v).Nodup := by decide

/-- (r0, c0) is the centre of an alignment pattern, and it lies in no finder pattern, so the pattern is not skipped
(45_matrix.md R244, C3). -/
def IsAlignmentCentre (v r0 c0 : Nat) : Prop :=
  (r0 ∈ alignPositions v ∧ c0 ∈ alignPositions v) ∧ (r0, c0) ∉ [(6, 6), (6, 4 * v + 10), (4 * v + 10, 6)]

/-- Where the two coordinates of such a centre may lie: each is even and 6, 4·v + 10 or between 18 and 4·v − 2, and the
pair is none of the three in finder patterns. -/
structure AlignmentBounds (v r0 c0 : Nat) : Prop where
  even : r0 % 2 = 0 ∧ c0 % 2 = 0
  row : r0 = 6 ∨ r0 = 4 * v + 10 ∨ (18 ≤ r0 ∧ r0 + 12 ≤ 4 * v + 10)
  column : c0 = 6 ∨ c0 = 4 * v + 10 ∨ (18 ≤ c0 ∧ c0 + 12 ≤ 4 * v + 10)
  large : 2 ≤ v
  off : ¬(r0 = 6 ∧ c0 = 6) ∧ ¬(r0 = 6 ∧ c0 = 4 * v + 10) ∧ ¬(r0 = 4 * v + 10 ∧ c0 = 6)

theorem IsAlignmentCentre.bounds {v r0 c0 : Nat} (hv : v ≤ 40) (h : IsAlignmentCentre v r0 c0) :
    AlignmentBounds v r0 c0 := by
  obtain ⟨⟨hr, hc⟩, hoff⟩ := h
  obtain ⟨hr2, hr6, hrn, hr18, hrlast, -⟩ := alignPositions_spaced v hv r0 hr
  obtain ⟨hc2, hc6, hcn, hc18, hclast, -⟩ := alignPositions_spaced v hv c0 hc
  simp only [List.mem_cons, Prod.mk.injEq, List.not_mem_nil, or_false, not_or] at hoff
  exact ⟨⟨hr2, hc2⟩, by omega, by omega, by omega, hoff⟩

/-- Two alignment patterns with a cell in common are the same (45_matrix.md R243, R244). -/
theorem alignment_centre_unique {v r0 c0 r1 c1 r c : Nat} (hv : v ≤ 40) (hr0 : r0 ∈ alignPositions v)
    (hc0 : c0 ∈ alignPositions v) (hr1 : r1 ∈ alignPositions v) (hc1 : c1 ∈ alignPositions v)
    (h0 : ringOf r0 c0 0 r c ≤ 2) (h1 : ringOf r1 c1 0 r c ≤ 2) : r0 = r1 ∧ c0 = c1 := by
  have apart {a b : Nat} (ha : a ∈ alignPositions v) (hb : b ∈ alignPositions v) (hne : a ≠ b) :
      a + 12 ≤ b ∨ b + 12 ≤ a := by
    obtain ⟨-, -, -, -, -, hab⟩ := alignPositions_spaced v hv a ha
    obtain ⟨-, -, -, -, -, hba⟩ := alignPositions_spaced v hv b hb
    exact (Nat.lt_or_gt_of_ne hne).imp (hab b hb) (hba a ha)
  rw [ringOf_le_iff] at h0 h1
  constructor <;> by_contra hne
  · have := apart hr0 hr1 hne
    omega
  · have := apart hc0 hc1 hne
    omega

/-! Step 2 as one list of writes. -/

/-- Patterns none of which covers a later one's centre are placed exactly where the centre is unset beforehand. -/
theorem foldl_placeAlignment {centres : List (Nat × Nat)} (g : Grid)
    (hsep : centres.Pairwise fun a b => ∀ x, (b.1, b.2, x) ∉ alignmentWrites a.1 a.2) :
    centres.foldl placeAlignment g =
      putAll g ((centres.filter fun a => g.get a.1 a.2 = .unset).flatMap fun a => alignmentWrites a.1 a.2) := by
  induction centres generalizing g with
  | nil => rfl
  | cons a centres ih =>
    obtain ⟨ha, hrest⟩ := List.pairwise_cons.mp hsep
    rw [List.foldl_cons, ih _ hrest]
    by_cases hu : g.get a.1 a.2 = .unset
    · have hfilter : (centres.filter fun b => (placeAlignment g a).get b.1 b.2 = .unset) =
          centres.filter fun b => g.get b.1 b.2 = .unset := by
        refine List.filter_congr fun b hb => ?_
        rw [placeAlignment, if_pos hu, get_putAll_of_not_mem (ha b hb)]
      rw [hfilter, List.filter_cons_of_pos (by simpa using hu), List.flatMap_cons, putAll_append, placeAlignment,
        if_pos hu]
    · rw [placeAlignment, if_neg hu, List.filter_cons_of_neg (by simpa using hu)]

theorem mem_alignmentCentres {v r0 c0 : Nat} :
    (r0, c0) ∈ alignmentCentres v ↔ r0 ∈ alignPositions v ∧ c0 ∈ alignPositions v := List.mem_product

theorem alignmentCentres_separated {v : Nat} (hv : v ≤ 40) :
    (alignmentCentres v).Pairwise fun a b => ∀ x, (b.1, b.2, x) ∉ alignmentWrites a.1 a.2 := by
  have hnodup : (alignmentCentres v).Nodup := (alignPositions_nodup v hv).product (alignPositions_nodup v hv)
  refine hnodup.pairwise_of_forall_ne ?_
  rintro ⟨r0, c0⟩ ha ⟨r1, c1⟩ hb hne x hx
  obtain ⟨hr0, hc0⟩ := mem_alignmentCentres.mp ha
  obtain ⟨hr1, hc1⟩ := mem_alignmentCentres.mp hb
  obtain ⟨-, hr6, -⟩ := alignPositions_spaced v hv r0 hr0
  obtain ⟨-, hc6, -⟩ := alignPositions_spaced v hv c0 hc0
  obtain ⟨hring, -⟩ := (mem_alignmentWrites (by omega) (by omega)).mp hx
  have hself : ringOf r1 c1 0 r1 c1 ≤ 2 := by simp [ringOf]
  obtain ⟨rfl, rfl⟩ := alignment_centre_unique hv hr0 hc0 hr1 hc1 hring hself
  exact hne rfl

/-! Steps 1 and 2. -/

/-- The writes of step 1 (45_matrix.md R242). -/
def allFinderWrites (n : Nat) : List CellWrite :=
  finderWrites n 0 0 ++ finderWrites n 0 (n - 7) ++ finderWrites n (n - 7) 0

/-- The writes of step 2 (45_matrix.md R244). -/
def allAlignmentWrites (v : Nat) : List CellWrite :=
  ((alignmentCentres v).filter fun a => a ∉ [(6, 6), (6, 4 * v + 10), (4 * v + 10, 6)]).flatMap fun a =>
    alignmentWrites a.1 a.2

/-- (r, c) is a cell of the symbol in a finder pattern or its separator, and r0 and c0 are the pattern's corner. -/
def InFinder (v r0 c0 r c : Nat) : Prop :=
  (r0, c0) ∈ [(0, 0), (0, 4 * v + 10), (4 * v + 10, 0)] ∧ r < 4 * v + 17 ∧ c < 4 * v + 17 ∧ ringOf r0 c0 3 r c ≤ 4

theorem inFinder_iff {v r0 c0 r c : Nat} :
    InFinder v r0 c0 r c ↔
      ((r0 = 0 ∧ c0 = 0) ∨ (r0 = 0 ∧ c0 = 4 * v + 10) ∨ (r0 = 4 * v + 10 ∧ c0 = 0)) ∧ r < 4 * v + 17 ∧ c < 4 * v + 17 ∧
      r0 ≤ r + 1 ∧ r ≤ r0 + 7 ∧ c0 ≤ c + 1 ∧ c ≤ c0 + 7 := by
  simp only [InFinder, List.mem_cons, Prod.mk.injEq, List.not_mem_nil, or_false, ringOf_le_iff]
  omega

theorem mem_allFinderWrites {v r c : Nat} {x : Bool} :
    (r, c, x) ∈ allFinderWrites (sideOf v) ↔
      ∃ r0 c0, InFinder v r0 c0 r c ∧ x = decide (ringOf r0 c0 3 r c ≠ 2 ∧ ringOf r0 c0 3 r c ≠ 4) := by
  have hcorner : 4 * v + 17 - 7 = 4 * v + 10 := by omega
  simp only [allFinderWrites, sideOf, hcorner, List.mem_append, mem_finderWrites, InFinder, List.mem_cons, Prod.mk.injEq,
    List.not_mem_nil, or_false]
  constructor
  · rintro ((h | h) | h)
    exacts [⟨0, 0, by tauto⟩, ⟨0, 4 * v + 10, by tauto⟩, ⟨4 * v + 10, 0, by tauto⟩]
  · rintro ⟨r0, c0, ⟨⟨rfl, rfl⟩ | ⟨rfl, rfl⟩ | ⟨rfl, rfl⟩, h⟩, hx⟩ <;> tauto

theorem mem_allAlignmentWrites {v r c : Nat} {x : Bool} (hv : v ≤ 40) :
    (r, c, x) ∈ allAlignmentWrites v ↔
      ∃ r0 c0, IsAlignmentCentre v r0 c0 ∧ ringOf r0 c0 0 r c ≤ 2 ∧ x = decide (ringOf r0 c0 0 r c ≠ 1) := by
  simp only [allAlignmentWrites, List.mem_flatMap, List.mem_filter, decide_eq_true_iff, Prod.exists, mem_alignmentCentres]
  refine exists_congr fun r0 => exists_congr fun c0 => and_congr_right fun h => ?_
  obtain ⟨-, hr, hc, -, -⟩ := IsAlignmentCentre.bounds hv h
  exact mem_alignmentWrites (by omega) (by omega)

/-- Of the centres of alignment patterns, step 1 sets the three in finder patterns (45_matrix.md R244, C3). -/
theorem placeFinders_sets_centre_iff {v r0 c0 : Nat} (hv : v ≤ 40) (hr0 : r0 ∈ alignPositions v)
    (hc0 : c0 ∈ alignPositions v) :
    (placeFinders (sideOf v) Grid.unset).get r0 c0 ≠ .unset ↔ (r0, c0) ∈ [(6, 6), (6, 4 * v + 10), (4 * v + 10, 6)] := by
  obtain ⟨-, hr6, hrn, hr18, hrlast, -⟩ := alignPositions_spaced v hv r0 hr0
  obtain ⟨-, hc6, hcn, hc18, hclast, -⟩ := alignPositions_spaced v hv c0 hc0
  show (putAll Grid.unset (allFinderWrites (sideOf v))).get r0 c0 ≠ _ ↔ _
  rw [putAll_set_iff (by omega) (by omega)]
  simp only [Grid.get_unset, ne_eq, not_true_eq_false, false_or, mem_allFinderWrites, inFinder_iff, List.mem_cons,
    Prod.mk.injEq, List.not_mem_nil, or_false]
  constructor
  · rintro ⟨-, a, b, h, -⟩
    omega
  · rintro (h | h | h)
    exacts [⟨_, 0, 0, by omega, rfl⟩, ⟨_, 0, 4 * v + 10, by omega, rfl⟩, ⟨_, 4 * v + 10, 0, by omega, rfl⟩]

/-- The writes of steps 1 and 2 (45_matrix.md R242, R244). -/
def patternWrites (v : Nat) : List CellWrite := allFinderWrites (sideOf v) ++ allAlignmentWrites v

theorem mem_patternWrites {v r c : Nat} {x : Bool} (hv : v ≤ 40) :
    (r, c, x) ∈ patternWrites v ↔
      (∃ r0 c0, InFinder v r0 c0 r c ∧ x = decide (ringOf r0 c0 3 r c ≠ 2 ∧ ringOf r0 c0 3 r c ≠ 4)) ∨
      ∃ r0 c0, IsAlignmentCentre v r0 c0 ∧ ringOf r0 c0 0 r c ≤ 2 ∧ x = decide (ringOf r0 c0 0 r c ≠ 1) := by
  rw [patternWrites, List.mem_append, mem_allFinderWrites, mem_allAlignmentWrites hv]

/-- Steps 1 and 2 are one list of writes (45_matrix.md R242, R244). -/
theorem placeAlignments_eq {v : Nat} (hv : v ≤ 40) :
    placeAlignments v (placeFinders (sideOf v) Grid.unset) =
      putAll Grid.unset (patternWrites v) := by
  have hkept : ((alignmentCentres v).filter fun a => (placeFinders (sideOf v) Grid.unset).get a.1 a.2 = .unset) =
      (alignmentCentres v).filter fun a => a ∉ [(6, 6), (6, 4 * v + 10), (4 * v + 10, 6)] := by
    refine List.filter_congr fun a ha => ?_
    obtain ⟨hr, hc⟩ := mem_alignmentCentres.mp ha
    rw [decide_eq_decide, ← not_iff_not, not_not]
    exact placeFinders_sets_centre_iff hv hr hc
  rw [placeAlignments, foldl_placeAlignment _ (alignmentCentres_separated hv), hkept, patternWrites,
    putAll_append]
  rfl

end Sys2Proof.Machine
end

section
/-! PROOFS. Steps 4 and 5 of a render (45_matrix.md R246 to R248): the format areas, the fixed module and the version areas
are one list of writes. -/

namespace Sys2Proof.Machine

open Sys2Proof Sys2Proof.Claims

/-- The writes of steps 4 and 5 (45_matrix.md R246, R247, R248). -/
def informationWrites (v word : Nat) (test : Bool) : List CellWrite :=
  formatWrites (sideOf v) word test ++ [(sideOf v - 8, 8, !test)] ++
    if 7 ≤ v then versionWrites (sideOf v) (versionWord v) test else []

/-- Both copies of the format word, the fixed module, and both blocks of the version word (45_matrix.md R246 to R248). -/
theorem mem_informationWrites {v word r c : Nat} {test x : Bool} :
    (r, c, x) ∈ informationWrites v word test ↔
      (∃ i < 15, ((r, c) = formatVPos (sideOf v) i ∨ (r, c) = formatHPos (sideOf v) i) ∧ x = (!test && word.testBit i)) ∨
      ((r = sideOf v - 8 ∧ c = 8) ∧ x = !test) ∨
      (7 ≤ v ∧ ∃ i < 18, ((r = i / 3 ∧ c = sideOf v - 11 + i % 3) ∨ (r = sideOf v - 11 + i % 3 ∧ c = i / 3)) ∧
        x = (!test && (versionWord v).testBit i)) := by
  simp only [informationWrites, List.mem_append, List.mem_ite_nil_right, formatWrites, versionWrites, List.mem_flatMap,
    List.mem_range, List.mem_cons, List.not_mem_nil, or_false, Prod.ext_iff, or_and_right, and_assoc, or_assoc]

theorem eq_formatVPos_iff {n i r c : Nat} :
    (r, c) = formatVPos n i ↔
      c = 8 ∧ ((i ≤ 5 ∧ r = i) ∨ ((i = 6 ∨ i = 7) ∧ r = i + 1) ∨ (8 ≤ i ∧ r = n - 15 + i)) := by
  unfold formatVPos
  split
  · simp only [Prod.mk.injEq]; omega
  · split <;> (simp only [Prod.mk.injEq]; omega)

theorem eq_formatHPos_iff {n i r c : Nat} :
    (r, c) = formatHPos n i ↔
      r = 8 ∧ ((i ≤ 7 ∧ c = n - 1 - i) ∨ (i = 8 ∧ c = 7) ∨ (9 ≤ i ∧ c = 14 - i)) := by
  unfold formatHPos
  split
  · simp only [Prod.mk.injEq]; omega
  · split <;> (simp only [Prod.mk.injEq]; omega)

/-- The cells of the format areas, the fixed module and the version areas, by coordinates (45_matrix.md R246 to R248). -/
def IsInformation (v r c : Nat) : Prop :=
  (c = 8 ∧ (r ≤ 5 ∨ r = 7 ∨ r = 8 ∨ (4 * v + 9 ≤ r ∧ r < 4 * v + 17))) ∨
  (r = 8 ∧ (c ≤ 5 ∨ c = 7 ∨ (4 * v + 9 ≤ c ∧ c < 4 * v + 17))) ∨
  (7 ≤ v ∧ ((r ≤ 5 ∧ 4 * v + 6 ≤ c ∧ c ≤ 4 * v + 8) ∨ (c ≤ 5 ∧ 4 * v + 6 ≤ r ∧ r ≤ 4 * v + 8)))

/-- The 6 × 3 block of the version word (45_matrix.md R248). -/
theorem exists_version_bit {b x y : Nat} :
    (∃ i < 18, x = i / 3 ∧ y = b + i % 3) ↔ x ≤ 5 ∧ b ≤ y ∧ y ≤ b + 2 := by
  constructor
  · rintro ⟨i, hi, rfl, rfl⟩
    omega
  · intro h
    exact ⟨3 * x + (y - b), by omega⟩

theorem mem_informationCells_iff {v r c : Nat} : (r, c) ∈ informationCells v ↔ IsInformation v r c := by
  have hdown : (∃ i < 7, 4 * v + 17 - 7 + i = r ∧ 8 = c) ↔ (4 * v + 10 ≤ r ∧ r < 4 * v + 17) ∧ c = 8 :=
    ⟨by rintro ⟨i, hi, h⟩; omega, fun h => ⟨r - (4 * v + 10), by omega⟩⟩
  have hright : (∃ i < 8, 8 = r ∧ 4 * v + 17 - 1 - i = c) ↔ r = 8 ∧ 4 * v + 9 ≤ c ∧ c < 4 * v + 17 :=
    ⟨by rintro ⟨i, hi, h⟩; omega, fun h => ⟨4 * v + 16 - c, by omega⟩⟩
  have hversion : (∃ i < 18, (r = i / 3 ∧ c = 4 * v + 17 - 11 + i % 3) ∨ (r = 4 * v + 17 - 11 + i % 3 ∧ c = i / 3)) ↔
      (r ≤ 5 ∧ 4 * v + 6 ≤ c ∧ c ≤ 4 * v + 8) ∨ (c ≤ 5 ∧ 4 * v + 6 ≤ r ∧ r ≤ 4 * v + 8) := by
    simp only [and_or_left, exists_or, and_comm (b := c = _ / 3), exists_version_bit]
    omega
  simp only [informationCells, IsInformation, List.mem_append, List.mem_ite_nil_right, List.mem_map, List.mem_flatMap,
    List.mem_range, List.mem_cons, Prod.mk.injEq, List.not_mem_nil, or_false, hdown, hright, hversion, existsAndEq,
    true_and, and_true]
  clear hdown hright hversion
  omega

/-- Steps 4 and 5 write these cells (45_matrix.md R246 to R248). -/
theorem exists_mem_informationWrites {v word r c : Nat} {test : Bool} :
    (∃ x, (r, c, x) ∈ informationWrites v word test) ↔ IsInformation v r c := by
  simp only [mem_informationWrites, IsInformation, eq_formatVPos_iff, eq_formatHPos_iff, sideOf]
  constructor
  · rintro ⟨x, ⟨i, hi, h, -⟩ | ⟨h, -⟩ | ⟨hv, i, hi, h, -⟩⟩ <;> omega
  · rintro (⟨rfl, h⟩ | ⟨rfl, h⟩ | ⟨hv, h | h⟩)
    · by_cases hfixed : r = 4 * v + 9
      · exact ⟨_, .inr (.inl ⟨by omega, rfl⟩)⟩
      · refine ⟨_, .inl ⟨if r ≤ 5 then r else if r ≤ 8 then r - 1 else r - (4 * v + 10) + 8, ?_, .inl ?_, rfl⟩⟩ <;>
          (split <;> [skip; split]) <;> omega
    · refine ⟨_, .inl ⟨if c ≤ 5 then 14 - c else if c = 7 then 8 else 4 * v + 16 - c, ?_, .inr ?_, rfl⟩⟩ <;>
        (split <;> [skip; split]) <;> omega
    · obtain ⟨hlong, hlo, hhi⟩ := h
      obtain ⟨i, hi, hcell⟩ :=
        (exists_version_bit (b := 4 * v + 17 - 11) (x := r) (y := c)).mpr ⟨hlong, by omega, by omega⟩
      exact ⟨_, .inr (.inr ⟨hv, i, hi, .inl hcell, rfl⟩)⟩
    · obtain ⟨hlong, hlo, hhi⟩ := h
      obtain ⟨i, hi, hcell⟩ :=
        (exists_version_bit (b := 4 * v + 17 - 11) (x := c) (y := r)).mpr ⟨hlong, by omega, by omega⟩
      exact ⟨_, .inr (.inr ⟨hv, i, hi, .inr hcell.symm, rfl⟩)⟩

end Sys2Proof.Machine
end

section
/-! PROOFS. The function modules of a render (45_matrix.md R242 to R248): the function cells are the cells that steps 1 to 5
set, and each holds what its own step wrote there, since the steps write apart from each other, and where the timing patterns
meet alignment patterns the two agree. -/

namespace Sys2Proof.Machine

open Sys2Proof Sys2Proof.Claims

/-- The writes of step 3 (45_matrix.md R245). -/
def timingWrites (n : Nat) : List CellWrite := (List.range n).flatMap fun i => [(6, i, i % 2 == 0), (i, 6, i % 2 == 0)]

theorem mem_timingWrites {n r c : Nat} {x : Bool} :
    (r, c, x) ∈ timingWrites n ↔ (r = 6 ∧ c < n ∧ x = decide (c % 2 = 0)) ∨ (c = 6 ∧ r < n ∧ x = decide (r % 2 = 0)) := by
  simp only [timingWrites, List.mem_flatMap, List.mem_range, List.mem_cons, Prod.mk.injEq, List.not_mem_nil, or_false,
    beq_eq_decide]
  constructor
  · rintro ⟨i, hi, ⟨rfl, rfl, rfl⟩ | ⟨rfl, rfl, rfl⟩⟩
    · exact .inl ⟨rfl, hi, rfl⟩
    · exact .inr ⟨rfl, hi, rfl⟩
  · rintro (⟨rfl, hi, rfl⟩ | ⟨rfl, hi, rfl⟩)
    · exact ⟨c, hi, .inl ⟨rfl, rfl, rfl⟩⟩
    · exact ⟨r, hi, .inr ⟨rfl, rfl, rfl⟩⟩

/-- The grid after steps 1 to 3 (45_matrix.md R242 to R245). -/
def patternGrid (v : Nat) : Grid := putAllIfUnset (putAll Grid.unset (patternWrites v)) (timingWrites (sideOf v))

/-- Steps 1 to 5 (45_matrix.md R242 to R248). -/
theorem functionGrid_eq {v : Nat} (e : BitVec 2) (m : BitVec 3) (test : Bool) (hv : v ≤ 40) :
    functionGrid v e m test =
      putAll (patternGrid v) (informationWrites v (formatWord e m) test) := by
  rw [patternGrid, ← placeAlignments_eq hv, informationWrites, putAll_append, putAll_append]
  show placeVersion v test _ = _
  unfold placeVersion
  split <;> rfl

section

variable {v r c : Nat} (hv : v ≤ 40)
include hv

/-- An alignment pattern lies apart from the finder patterns (45_matrix.md R243). -/
theorem not_inFinder_of_alignment {r0 c0 a b : Nat} (h : IsAlignmentCentre v r0 c0) (hring : ringOf r0 c0 0 r c ≤ 2) :
    ¬InFinder v a b r c := by
  obtain ⟨-, hr0, hc0, h2, hoff⟩ := h.bounds hv
  rw [inFinder_iff]
  rw [ringOf_le_iff] at hring
  omega

/-- An alignment pattern lies apart from the cells of steps 4 and 5 (45_matrix.md R243). -/
theorem not_isInformation_of_alignment {r0 c0 : Nat} (h : IsAlignmentCentre v r0 c0) (hring : ringOf r0 c0 0 r c ≤ 2) :
    ¬IsInformation v r c := by
  obtain ⟨-, hr0, hc0, h2, hoff⟩ := h.bounds hv
  rw [ringOf_le_iff] at hring
  unfold IsInformation
  omega

/-- An alignment pattern lies inside the symbol (45_matrix.md R243). -/
theorem alignment_in_symbol {r0 c0 : Nat} (h : IsAlignmentCentre v r0 c0) (hring : ringOf r0 c0 0 r c ≤ 2) :
    r < 4 * v + 17 ∧ c < 4 * v + 17 := by
  obtain ⟨-, hr0, hc0, -, -⟩ := h.bounds hv
  rw [ringOf_le_iff] at hring
  omega

/-- A cell of the symbol after steps 1 to 5 is set exactly when it is a function cell (45_matrix.md R242 to R248). -/
theorem functionGrid_set_iff (e : BitVec 2) (m : BitVec 3) (test : Bool) (h1 : 1 ≤ v) (hr : r < 4 * v + 17)
    (hc : c < 4 * v + 17) : (functionGrid v e m test).get r c ≠ .unset ↔ isFunctionCell v r c := by
  have hr' : r < 177 := by omega
  have hc' : c < 177 := by omega
  have hfinder : (∃ x, (r, c, x) ∈ allFinderWrites (sideOf v)) ↔
      (r ≤ 7 ∧ c ≤ 7) ∨ (r ≤ 7 ∧ 4 * v + 9 ≤ c) ∨ (4 * v + 9 ≤ r ∧ c ≤ 7) := by
    simp only [mem_allFinderWrites, inFinder_iff]
    constructor
    · rintro ⟨-, r0, c0, h, -⟩
      omega
    · rintro (h | h | h)
      exacts [⟨_, 0, 0, by omega, rfl⟩, ⟨_, 0, 4 * v + 10, by omega, rfl⟩, ⟨_, 4 * v + 10, 0, by omega, rfl⟩]
  have halign : (∃ x, (r, c, x) ∈ allAlignmentWrites v) ↔
      ∃ r0 ∈ alignOf v, ∃ c0 ∈ alignOf v,
        (r0, c0) ∉ [(6, 6), (6, 4 * v + 10), (4 * v + 10, 6)] ∧ ringOf r0 c0 0 r c ≤ 2 := by
    simp only [mem_allAlignmentWrites hv, alignOf_eq v h1 hv, IsAlignmentCentre]
    constructor
    · rintro ⟨x, r0, c0, ⟨⟨hr0, hc0⟩, hoff⟩, hring, -⟩
      exact ⟨r0, hr0, c0, hc0, hoff, hring⟩
    · rintro ⟨r0, hr0, c0, hc0, hoff, hring⟩
      exact ⟨_, r0, c0, ⟨⟨hr0, hc0⟩, hoff⟩, hring, rfl⟩
  have htiming : (∃ x, (r, c, x) ∈ timingWrites (sideOf v)) ↔ r = 6 ∨ c = 6 := by
    simp only [mem_timingWrites, exists_or, exists_and_left, exists_eq, and_true, sideOf, hr, hc]
  rw [functionGrid_eq e m test hv, putAll_set_iff hr' hc', patternGrid, putAllIfUnset_set_iff hr' hc',
    putAll_set_iff hr' hc']
  simp only [patternWrites, List.mem_append, exists_or, hfinder, halign, htiming, exists_mem_informationWrites,
    ← mem_informationCells_iff, Grid.get_unset, ne_eq, not_true_eq_false, false_or, isFunctionCell, or_assoc]
  exact or_congr_right (or_congr_right (or_congr_right (or_comm.trans (by simp only [or_assoc]))))

/-- A cell of steps 4 and 5 holds what their writes of it agree on (45_matrix.md R246 to R248). -/
theorem functionGrid_get_information {e : BitVec 2} {m : BitVec 3} {test x : Bool}
    (hmem : (r, c, x) ∈ informationWrites v (formatWord e m) test)
    (hall : ∀ y, (r, c, y) ∈ informationWrites v (formatWord e m) test → y = x) :
    (functionGrid v e m test).get r c = .ofBool x := by
  obtain ⟨hr, hc⟩ : r < 177 ∧ c < 177 := by
    have h := exists_mem_informationWrites.mp ⟨x, hmem⟩
    unfold IsInformation at h
    omega
  rw [functionGrid_eq e m test hv]
  exact get_putAll_of_mem hr hc hmem hall

/-- Steps 4 and 5 leave every other cell as it was (45_matrix.md R246 to R248). -/
theorem functionGrid_get_of_not_information (e : BitVec 2) (m : BitVec 3) (test : Bool) (h : ¬IsInformation v r c) :
    (functionGrid v e m test).get r c = (patternGrid v).get r c := by
  rw [functionGrid_eq e m test hv]
  exact get_putAll_of_not_mem fun x hx => h (exists_mem_informationWrites.mp ⟨x, hx⟩)

/-- A cell of steps 1 and 2 alone holds what their writes of it agree on (45_matrix.md R242, R244). -/
theorem functionGrid_get_pattern (e : BitVec 2) (m : BitVec 3) (test : Bool) {x : Bool} (hr : r < 4 * v + 17)
    (hc : c < 4 * v + 17) (hinfo : ¬IsInformation v r c)
    (hmem : (r, c, x) ∈ patternWrites v) (hall : ∀ y, (r, c, y) ∈ patternWrites v → y = x) :
    (functionGrid v e m test).get r c = .ofBool x := by
  have hput := get_putAll_of_mem (g := Grid.unset) (by omega) (by omega) hmem hall
  rw [functionGrid_get_of_not_information hv e m test hinfo, patternGrid, putAllIfUnset_keeps _ (by simp [hput]), hput]

/-- A finder pattern with its separator (45_matrix.md R242). -/
theorem functionGrid_get_finder (e : BitVec 2) (m : BitVec 3) (test : Bool) {r0 c0 : Nat} (h1 : 1 ≤ v)
    (h : InFinder v r0 c0 r c) :
    (functionGrid v e m test).get r c = .ofBool (decide (ringOf r0 c0 3 r c ≠ 2 ∧ ringOf r0 c0 3 r c ≠ 4)) := by
  have hunique {a b : Nat} (h' : InFinder v a b r c) : a = r0 ∧ b = c0 := by
    rw [inFinder_iff] at h h'
    omega
  have hinfo : ¬IsInformation v r c := by
    rw [inFinder_iff] at h
    unfold IsInformation
    omega
  have ⟨_, hr, hc, _⟩ := h
  refine functionGrid_get_pattern hv e m test hr hc hinfo ((mem_patternWrites hv).mpr (.inl ⟨r0, c0, h, rfl⟩))
    fun y hy => ?_
  obtain ⟨a, b, h', rfl⟩ | ⟨a, b, hcentre, hring', -⟩ := (mem_patternWrites hv).mp hy
  · obtain ⟨rfl, rfl⟩ := hunique h'
    rfl
  · exact absurd h (not_inFinder_of_alignment hv hcentre hring')

/-- An alignment pattern (45_matrix.md R244). -/
theorem functionGrid_get_alignment (e : BitVec 2) (m : BitVec 3) (test : Bool) {r0 c0 : Nat}
    (h : IsAlignmentCentre v r0 c0) (hring : ringOf r0 c0 0 r c ≤ 2) :
    (functionGrid v e m test).get r c = .ofBool (decide (ringOf r0 c0 0 r c ≠ 1)) := by
  obtain ⟨hr, hc⟩ := alignment_in_symbol hv h hring
  refine functionGrid_get_pattern hv e m test hr hc (not_isInformation_of_alignment hv h hring)
    ((mem_patternWrites hv).mpr (.inr ⟨r0, c0, h, hring, rfl⟩)) fun y hy => ?_
  obtain ⟨a, b, hfinder, -⟩ | ⟨a, b, h', hring', rfl⟩ := (mem_patternWrites hv).mp hy
  · exact absurd hfinder (not_inFinder_of_alignment hv h hring)
  · obtain ⟨⟨hr0, hc0⟩, -⟩ := h
    obtain ⟨⟨hr1, hc1⟩, -⟩ := h'
    obtain ⟨rfl, rfl⟩ := alignment_centre_unique hv hr0 hc0 hr1 hc1 hring hring'
    rfl

/-- A timing pattern between the finders, alignment patterns on it included: those are dark where it is
(45_matrix.md R244, R245). -/
theorem functionGrid_get_timing (e : BitVec 2) (m : BitVec 3) (test : Bool) {i : Nat} (h8 : 8 ≤ i) (hi : i ≤ 4 * v + 8)
    (hcell : (r = 6 ∧ c = i) ∨ (r = i ∧ c = 6)) :
    (functionGrid v e m test).get r c = .ofBool (decide (i % 2 = 0)) := by
  by_cases halign : ∃ r0 c0, IsAlignmentCentre v r0 c0 ∧ ringOf r0 c0 0 r c ≤ 2
  · obtain ⟨r0, c0, h, hring⟩ := halign
    rw [functionGrid_get_alignment hv e m test h hring, decide_eq_decide.mpr]
    obtain ⟨heven, hr0, hc0, -, -⟩ := h.bounds hv
    unfold ringOf at hring ⊢
    omega
  · have hinfo : ¬IsInformation v r c := by unfold IsInformation; omega
    have hfree : ∀ x, (r, c, x) ∉ patternWrites v := by
      intro x hx
      obtain ⟨a, b, h, -⟩ | ⟨a, b, h, hring, -⟩ := (mem_patternWrites hv).mp hx
      · rw [inFinder_iff] at h
        omega
      · exact halign ⟨a, b, h, hring⟩
    rw [functionGrid_get_of_not_information hv e m test hinfo]
    refine get_putAllIfUnset_of_mem (by omega) (by omega) (by rw [get_putAll_of_not_mem hfree, Grid.get_unset])
      (mem_timingWrites.mpr ?_) fun y hy => ?_
    · rcases hcell with ⟨rfl, rfl⟩ | ⟨rfl, rfl⟩ <;> simp [sideOf] <;> omega
    · rcases mem_timingWrites.mp hy with ⟨hr6, -, rfl⟩ | ⟨hc6, -, rfl⟩ <;> rw [decide_eq_decide] <;> omega

/-- Bit i of the format word at both of its places (45_matrix.md R246). -/
theorem functionGrid_get_format (e : BitVec 2) (m : BitVec 3) {i : Nat} (hi : i < 15)
    (hcell : (r, c) = formatVPos (sideOf v) i ∨ (r, c) = formatHPos (sideOf v) i) :
    (functionGrid v e m false).get r c = .ofBool ((formatWord e m).testBit i) := by
  refine functionGrid_get_information hv (mem_informationWrites.mpr (.inl ⟨i, hi, hcell, by simp⟩)) fun y hy => ?_
  simp only [mem_informationWrites, eq_formatVPos_iff, eq_formatHPos_iff, sideOf] at hy hcell
  obtain ⟨j, hj, hcell', rfl⟩ | ⟨h, -⟩ | ⟨h7, j, hj, h, -⟩ := hy
  · obtain rfl : j = i := by omega
    simp
  · omega
  · omega

/-- Bit i of the version word in both blocks (45_matrix.md R248). -/
theorem functionGrid_get_version (e : BitVec 2) (m : BitVec 3) {i : Nat} (h7 : 7 ≤ v) (hi : i < 18)
    (hcell : (r = i / 3 ∧ c = sideOf v - 11 + i % 3) ∨ (r = sideOf v - 11 + i % 3 ∧ c = i / 3)) :
    (functionGrid v e m false).get r c = .ofBool ((versionWord v).testBit i) := by
  refine functionGrid_get_information hv (mem_informationWrites.mpr (.inr (.inr ⟨h7, i, hi, hcell, by simp⟩)))
    fun y hy => ?_
  simp only [mem_informationWrites, eq_formatVPos_iff, eq_formatHPos_iff, sideOf] at hy hcell
  obtain ⟨j, hj, h, -⟩ | ⟨h, -⟩ | ⟨-, j, hj, hcell', rfl⟩ := hy
  · omega
  · omega
  · obtain rfl : j = i := by omega
    simp

/-- The fixed module (45_matrix.md R247). -/
theorem functionGrid_get_fixed (e : BitVec 2) (m : BitVec 3) :
    (functionGrid v e m false).get (sideOf v - 8) 8 = .dark := by
  refine functionGrid_get_information (x := true) hv (mem_informationWrites.mpr (.inr (.inl ⟨⟨rfl, rfl⟩, rfl⟩)))
    fun y hy => ?_
  simp only [mem_informationWrites, eq_formatVPos_iff, eq_formatHPos_iff, sideOf] at hy
  obtain ⟨j, hj, h, -⟩ | ⟨-, rfl⟩ | ⟨-, j, hj, h, -⟩ := hy
  · omega
  · rfl
  · omega

/-- In a test render the cells of steps 4 and 5 are light (45_matrix.md R250). -/
theorem functionGrid_get_test (e : BitVec 2) (m : BitVec 3) (h : IsInformation v r c) :
    (functionGrid v e m true).get r c = .light := by
  have hlight : ∀ y, (r, c, y) ∈ informationWrites v (formatWord e m) true → y = false := by
    intro y hy
    obtain ⟨-, -, -, rfl⟩ | ⟨-, rfl⟩ | ⟨-, -, -, -, rfl⟩ := mem_informationWrites.mp hy <;> rfl
  obtain ⟨x, hx⟩ := exists_mem_informationWrites.mpr h
  exact functionGrid_get_information hv (hlight x hx ▸ hx) hlight

end

/-- The function modules of a test render do not depend on the mask (45_matrix.md R250). -/
theorem functionGrid_test_mask (v : Nat) (e : BitVec 2) (m m' : BitVec 3) :
    functionGrid v e m true = functionGrid v e m' true := by
  simp only [functionGrid, placeFormat, formatWrites, Bool.not_true, Bool.false_and]

end Sys2Proof.Machine
end

section
/-! PROOFS. Data placement (45_matrix.md R249, R252, R258): the traversal visits every cell outside column 6 once, and its
k-th unset cell takes bit k of the codewords. With the function modules this settles what a render holds. -/

namespace Sys2Proof.Machine

open Sys2Proof Sys2Proof.Claims

/-! The traversal. -/

theorem pairColumn_pos {n p : Nat} (hn : n % 2 = 1) (hp : p < (n - 1) / 2) : 1 ≤ pairColumn n p ∧ pairColumn n p < n := by
  unfold pairColumn
  dsimp only
  split <;> omega

/-- Two column pairs have no column in common (45_matrix.md R249). -/
theorem pairColumn_apart {n p q : Nat} (hn : n % 2 = 1) (hpq : p < q) (hq : q < (n - 1) / 2) :
    pairColumn n q + 2 ≤ pairColumn n p := by
  unfold pairColumn
  dsimp only
  split <;> split <;> omega

theorem mem_zigzag_bounds {n r c : Nat} (hn : n % 2 = 1) (h : (r, c) ∈ zigzag n) : r < n ∧ c < n := by
  simp only [zigzag, List.mem_flatMap, List.mem_range, List.mem_cons, Prod.mk.injEq, List.not_mem_nil, or_false] at h
  obtain ⟨p, hp, row, hrow, hcell⟩ := h
  have hrow := mem_pairRows.mp hrow
  have hcol := pairColumn_pos hn hp
  omega

/-- The traversal visits no cell twice (45_matrix.md R249). -/
theorem zigzag_nodup {n : Nat} (hn : n % 2 = 1) : (zigzag n).Nodup := by
  refine List.nodup_flatMap.mpr ⟨fun p hp => List.nodup_flatMap.mpr ⟨fun row _ => ?_, ?_⟩, ?_⟩
  · have hcol := pairColumn_pos hn (List.mem_range.mp hp)
    have hne : pairColumn n p ≠ pairColumn n p - 1 := by omega
    simp [hne]
  · have hrows : (pairRows n p).Nodup := by
      unfold pairRows
      split <;> simp [List.nodup_range]
    refine hrows.pairwise_of_forall_ne fun a _ b _ hab => ?_
    simp [Function.onFun, List.Disjoint, hab]
  · refine List.pairwise_lt_range.imp_of_mem fun {p q} hp hq hpq => ?_
    have hapart := pairColumn_apart hn hpq (List.mem_range.mp hq)
    rintro ⟨r, c⟩ hpc hqc
    simp only [List.mem_flatMap, List.mem_cons, Prod.mk.injEq, List.not_mem_nil, or_false] at hpc hqc
    obtain ⟨_, _, hpc⟩ := hpc
    obtain ⟨_, _, hqc⟩ := hqc
    omega

/-- The even columns from 8 on. -/
theorem evenColumns_eq (k : Nat) :
    ((List.range (2 * k + 9)).filter fun c => c % 2 == 0 && decide (8 ≤ c)) =
      (List.range (k + 1)).map fun i => 8 + 2 * i := by
  induction k with
  | zero => decide
  | succ k ih =>
    rw [show 2 * (k + 1) + 9 = 2 * k + 9 + 1 + 1 by omega, List.range_succ, List.range_succ, List.filter_append,
      List.filter_append, ih, List.range_succ (n := k + 1), List.map_append]
    have hodd : (2 * k + 9) % 2 = 1 := by omega
    have heven : (2 * k + 10) % 2 = 0 := by omega
    simp [hodd, heven]
    omega

/-- The right columns of the pairs from the right (45_matrix.md R249). -/
theorem pairColumns_eq (k : Nat) :
    (((List.range (2 * k + 9)).filter fun c => c % 2 == 0 && decide (8 ≤ c)).reverse ++ [5, 3, 1]) =
      (List.range (k + 4)).map (pairColumn (2 * k + 9)) := by
  rw [evenColumns_eq]
  refine List.ext_getElem (by simp) fun i hi hi' => ?_
  simp only [List.getElem_map, List.getElem_range, List.length_map, List.length_range] at hi' ⊢
  by_cases hleft : i < k + 1
  · rw [List.getElem_append_left (by simpa using hleft)]
    simp only [List.getElem_reverse, List.getElem_map, List.getElem_range, List.length_map, List.length_range, pairColumn]
    split <;> omega
  · obtain rfl | rfl | rfl : i = k + 1 ∨ i = k + 2 ∨ i = k + 3 := by omega
    all_goals
      rw [List.getElem_append_right (by simp)]
      simp only [pairColumn]
      rw [if_pos (by omega)]
      simp
      omega

/-- The traversal is the order of the rules (45_matrix.md R249). -/
theorem zigzag_eq_dataOrder (v : Nat) : zigzag (sideOf v) = dataOrder (4 * v + 17) := by
  have hcolumns := pairColumns_eq (2 * v + 4)
  rw [show 2 * (2 * v + 4) + 9 = 4 * v + 17 by omega] at hcolumns
  have hpairs : (4 * v + 17 - 1) / 2 = 2 * v + 4 + 4 := by omega
  have hindex : ((List.range (2 * v + 4 + 4)).map (pairColumn (4 * v + 17))).zipIdx =
      (List.range (2 * v + 4 + 4)).map fun p => (pairColumn (4 * v + 17) p, p) :=
    List.ext_getElem (by simp) (by simp)
  rw [dataOrder, hcolumns, hindex, List.flatMap_map, zigzag, sideOf, hpairs]
  rfl

/-! The data bits. -/

/-- The predicates of the mask table (45_matrix.md R252). -/
theorem maskF_eq_true_iff (m : BitVec 3) (i j : Nat) : maskF m i j = true ↔ Flips m i j := by
  obtain rfl | rfl | rfl | rfl | rfl | rfl | rfl | rfl :
      m = 0 ∨ m = 1 ∨ m = 2 ∨ m = 3 ∨ m = 4 ∨ m = 5 ∨ m = 6 ∨ m = 7 := by
    revert m; decide
  all_goals simp [maskF, Flips]

theorem codewordBit_eq (cw : List Byte) (k : Nat) : codewordBit cw k = (cw.getD (k / 8) 0).getMsbD (k % 8) := by
  unfold codewordBit
  split
  · rfl
  · rw [List.getD_eq_default _ _ (by omega)]
    simp

/-- The k-th unset cell of a list of distinct cells takes the k-th bit from the one the traversal has come to
(45_matrix.md R249). -/
theorem placeBits_get (cw : List Byte) (m : BitVec 3) {cells : List (Nat × Nat)} (hnodup : cells.Nodup)
    (hin : ∀ p ∈ cells, p.1 < 177 ∧ p.2 < 177) (g : Grid) (j k : Nat) {p : Nat × Nat}
    (hp : (cells.filter fun q => g.get q.1 q.2 = .unset)[k]? = some p) :
    (cells.foldl (placeBit cw m) (g, j)).1.get p.1 p.2 = .ofBool (codewordBit cw (j + k) ^^ maskF m p.1 p.2) := by
  induction cells generalizing g j k with
  | nil => simp at hp
  | cons a cells ih =>
    obtain ⟨ha, hrest⟩ := List.nodup_cons.mp hnodup
    have hin' : ∀ q ∈ cells, q.1 < 177 ∧ q.2 < 177 := fun q hq => hin q (List.mem_cons_of_mem _ hq)
    rw [List.foldl_cons]
    by_cases hu : g.get a.1 a.2 = .unset
    · obtain ⟨hr, hc⟩ := hin a List.mem_cons_self
      have hvisit : placeBit cw m (g, j) a = (g.put a.1 a.2 (codewordBit cw j ^^ maskF m a.1 a.2), j + 1) := by
        simp only [placeBit, if_pos hu]
      rw [List.filter_cons_of_pos (by simpa using hu)] at hp
      rw [hvisit]
      cases k with
      | zero =>
        obtain rfl : a = p := by simpa using hp
        have hput := Grid.get_put_same g (codewordBit cw j ^^ maskF m a.1 a.2) hr hc
        rw [placeBits_keeps _ (by simp [hput])]
        exact hput
      | succ k =>
        rw [show j + (k + 1) = j + 1 + k by omega]
        refine ih hrest hin' _ _ _ ?_
        rw [List.getElem?_cons_succ] at hp
        rw [← hp]
        congr 1
        refine List.filter_congr fun q hq => ?_
        rw [Grid.get_put_other]
        rintro ⟨h1, h2⟩
        exact ha (Prod.ext h1 h2 ▸ hq)
    · have hvisit : placeBit cw m (g, j) a = (g, j) := by simp only [placeBit, if_neg hu]
      rw [List.filter_cons_of_neg (by simpa using hu)] at hp
      rw [hvisit]
      exact ih hrest hin' g j k hp

/-- A cell the traversal does not visit keeps its value (45_matrix.md R249). -/
theorem placeBits_get_of_not_mem (cw : List Byte) (m : BitVec 3) {cells : List (Nat × Nat)} {r c : Nat}
    (h : (r, c) ∉ cells) (acc : Grid × Nat) : (cells.foldl (placeBit cw m) acc).1.get r c = acc.1.get r c := by
  induction cells generalizing acc with
  | nil => rfl
  | cons a cells ih =>
    rw [List.foldl_cons, ih (List.not_mem_of_not_mem_cons h), placeBit]
    split
    · refine Grid.get_put_other _ _ ?_
      rintro ⟨rfl, rfl⟩
      exact h List.mem_cons_self
    · rfl

/-! The cells of a render. -/

theorem MtxCell.ofBool_eq_dark_iff (x : Bool) : MtxCell.ofBool x = .dark ↔ x = true := by
  cases x <;> simp [MtxCell.ofBool]

theorem MtxCell.ofBool_inj {x y : Bool} : MtxCell.ofBool x = MtxCell.ofBool y ↔ x = y := by
  rw [Bool.eq_iff_iff, ← MtxCell.ofBool_eq_dark_iff x, ← MtxCell.ofBool_eq_dark_iff y]
  constructor
  · intro h
    rw [h]
  · cases x <;> cases y <;> simp [MtxCell.ofBool]

/-- A function cell of a render (45_matrix.md R242 to R249). -/
theorem render_get_function {v : Nat} (e : BitVec 2) (cw : List Byte) (m : BitVec 3) (test : Bool) {r c : Nat}
    (h : (functionGrid v e m test).get r c ≠ .unset) :
    (render v e cw m test).get r c = (functionGrid v e m test).get r c := placeBits_keeps _ h

theorem isDark_render_iff {v r c : Nat} {e : BitVec 2} (cw : List Byte) {m : BitVec 3} {test x : Bool}
    (h : (functionGrid v e m test).get r c = .ofBool x) : isDark (render v e cw m test) r c ↔ x = true := by
  rw [isDark, render_get_function e cw m test (by simp [h]), h, MtxCell.ofBool_eq_dark_iff]

/-! The data cells. -/

/-- The data cells in the order of the traversal (45_matrix.md R249). -/
def dataCells (v : Nat) : List (Nat × Nat) :=
  (dataOrder (4 * v + 17)).filter fun (p : Nat × Nat) => decide ¬isFunctionCell v p.1 p.2

section

variable {v : Nat} (h1 : 1 ≤ v) (hv : v ≤ 40)
include h1 hv

/-- The data cells are those steps 1 to 5 leave unset (45_matrix.md R249). -/
theorem dataCells_eq (e : BitVec 2) (m : BitVec 3) (test : Bool) :
    dataCells v = (zigzag (sideOf v)).filter fun p => (functionGrid v e m test).get p.1 p.2 = .unset := by
  rw [dataCells, zigzag_eq_dataOrder]
  refine List.filter_congr fun p hp => ?_
  obtain ⟨hr, hc⟩ := mem_zigzag_bounds (by unfold sideOf; omega) (zigzag_eq_dataOrder v ▸ hp)
  rw [decide_eq_decide, ← functionGrid_set_iff hv e m test h1 hr hc, not_not]

theorem mem_dataCells_iff {r c : Nat} (hr : r < 4 * v + 17) (hc : c < 4 * v + 17) :
    (r, c) ∈ dataCells v ↔ ¬isFunctionCell v r c := by
  simp only [dataCells, List.mem_filter, decide_eq_true_iff, ← zigzag_eq_dataOrder, and_iff_right_iff_imp]
  intro h
  have h6 : c ≠ 6 := by
    rintro rfl
    exact h (by unfold isFunctionCell; tauto)
  exact mem_zigzag (by unfold sideOf; omega) (by unfold sideOf; omega) hr hc h6

/-- Data cell k of a render (45_matrix.md R249, R252). -/
theorem render_get_data (e : BitVec 2) (cw : List Byte) (m : BitVec 3) (test : Bool) {k : Nat} {p : Nat × Nat}
    (hp : (dataCells v)[k]? = some p) :
    (render v e cw m test).get p.1 p.2 = .ofBool (codewordBit cw k ^^ maskF m p.1 p.2) := by
  have hodd : sideOf v % 2 = 1 := by unfold sideOf; omega
  rw [dataCells_eq h1 hv e m test] at hp
  have hget := placeBits_get cw m (zigzag_nodup hodd) (fun p hp => ?_) _ 0 k hp
  · rwa [Nat.zero_add] at hget
  · have hbounds := mem_zigzag_bounds hodd hp
    unfold sideOf at hbounds
    omega

/-- DM(v) is the number of data cells (45_matrix.md R258). -/
theorem length_dataCells : (dataCells v).length = dataModules v := by
  have hodd : sideOf v % 2 = 1 := by unfold sideOf; omega
  have hcells : dataModules v =
      ((List.range (sideOf v) ×ˢ List.range (sideOf v)).filter fun p =>
        (functionGrid v 0 0 false).get p.1 p.2 = .unset).length := by
    have hlist : cellsOf (sideOf v) (functionGrid v 0 0 false) =
        (List.range (sideOf v) ×ˢ List.range (sideOf v)).map fun p => (functionGrid v 0 0 false).get p.1 p.2 := by
      simp [cellsOf, List.product, SProd.sprod, List.map_flatMap, Function.comp_def]
    rw [dataModules, hlist, List.count, List.countP_map, List.countP_eq_length_filter]
    rfl
  rw [hcells, dataCells_eq h1 hv 0 0 false]
  refine List.Perm.length_eq ((List.perm_ext_iff_of_nodup ((zigzag_nodup hodd).filter _)
    ((List.nodup_range.product List.nodup_range).filter _)).mpr ?_)
  rintro ⟨r, c⟩
  simp only [List.mem_filter, List.mem_product, List.mem_range, decide_eq_true_iff]
  refine and_congr_left fun hu => ⟨mem_zigzag_bounds hodd, fun ⟨hr, hc⟩ => ?_⟩
  refine mem_zigzag (by unfold sideOf; omega) hodd hr hc ?_
  rintro rfl
  exact functionGrid_sets_column 0 0 false (by unfold sideOf; omega) hr hu

end

/-- Settles O53: the data cells are the cells step 6 finds unset. -/
theorem dataBitsFollowTheTraversal : Obligations.DataBitsFollowTheTraversal := by
  intro v e cw m test h1 hv
  refine ⟨length_dataCells h1 hv, fun k hk => ?_⟩
  rw [isDark, render_get_data h1 hv e cw m test (List.getElem?_eq_getElem hk), MtxCell.ofBool_eq_dark_iff,
    ← codewordBit_eq, ← maskF_eq_true_iff]
  cases codewordBit cw k <;> simp

/-- Settles O54: the masks are told apart in step 6 alone, where one bit is flipped by either. -/
theorem masksFlipDataCells : Obligations.MasksFlipDataCells := by
  intro v e cw m m' r c h1 hv hr hc
  constructor
  · intro h
    have hset := (functionGrid_set_iff hv e m true h1 hr hc).mpr h
    have hset' := (functionGrid_set_iff hv e m' true h1 hr hc).mpr h
    rw [render_get_function e cw m true hset, render_get_function e cw m' true hset',
      functionGrid_test_mask v e m m']
  · intro h
    obtain ⟨k, hk⟩ := List.mem_iff_getElem?.mp ((mem_dataCells_iff h1 hv hr hc).mpr h)
    rw [render_get_data h1 hv e cw m true hk, render_get_data h1 hv e cw m' true hk, MtxCell.ofBool_inj,
      Bool.xor_right_inj, ← maskF_eq_true_iff, ← maskF_eq_true_iff, ← Bool.eq_iff_iff]

/-- Settles O51: the writes of steps 4 and 5 alone depend on the flag, and step 6 finds the same cells unset. -/
theorem testRenderDiffersOnlyInInformation : Obligations.TestRenderDiffersOnlyInInformation := by
  intro v e cw m r c h1 hv
  rw [mem_informationCells_iff]
  constructor
  · intro h
    have hlight := functionGrid_get_test hv e m h
    rw [render_get_function e cw m true (by simp [hlight]), hlight]
  · intro h
    have hsame : (functionGrid v e m true).get r c = (functionGrid v e m false).get r c := by
      rw [functionGrid_get_of_not_information hv e m true h, functionGrid_get_of_not_information hv e m false h]
    by_cases hset : (functionGrid v e m false).get r c = .unset
    · by_cases hvisited : (r, c) ∈ zigzag (sideOf v)
      · have hdata : (r, c) ∈ dataCells v := by
          rw [dataCells_eq h1 hv e m false]
          exact List.mem_filter.mpr ⟨hvisited, by simpa using hset⟩
        obtain ⟨k, hk⟩ := List.mem_iff_getElem?.mp hdata
        rw [render_get_data h1 hv e cw m true hk, render_get_data h1 hv e cw m false hk]
      · have hkeep (test : Bool) : (render v e cw m test).get r c = (functionGrid v e m test).get r c :=
          placeBits_get_of_not_mem cw m hvisited _
        rw [hkeep, hkeep, hsame]
    · rw [render_get_function e cw m true (hsame ▸ hset), render_get_function e cw m false hset, hsame]

/-- The places of bits 0 to 14 along column 8 (45_matrix.md R246). -/
theorem verticalFormat_eq {n : Nat} (hn : 15 ≤ n) : verticalFormat n = (List.range 15).map (formatVPos n) := by
  simp [verticalFormat, formatVPos, List.range_succ]
  omega

/-- The places of bits 0 to 14 along row 8 (45_matrix.md R246). -/
theorem horizontalFormat_eq (n : Nat) : horizontalFormat n = (List.range 15).map (formatHPos n) := by
  simp [horizontalFormat, formatHPos, List.range_succ]

/-- Settles O52: each function module holds what its step wrote there. -/
theorem finalRenderFunctionModules : Obligations.FinalRenderFunctionModules := by
  intro v e cw m h1 hv
  dsimp only
  rw [show 4 * v + 17 - 7 = 4 * v + 10 by omega, ← formatWord_eq_table]
  refine ⟨fun corner hcorner r c hr hc hring => ?_, fun r0 hr0 c0 hc0 hoff r c hring => ?_, fun i h8 hi => ⟨?_, ?_⟩,
    fun i p q hp hq => ?_, ?_, fun h7 i hi => ⟨?_, ?_⟩⟩
  · rw [isDark_render_iff cw (functionGrid_get_finder hv e m false h1 ⟨hcorner, hr, hc, hring⟩), decide_eq_true_iff]
  · rw [alignOf_eq v h1 hv] at hr0 hc0
    rw [isDark_render_iff cw (functionGrid_get_alignment hv e m false ⟨⟨hr0, hc0⟩, hoff⟩ hring), decide_eq_true_iff]
  · rw [isDark_render_iff cw (functionGrid_get_timing hv e m false h8 (by omega) (.inl ⟨rfl, rfl⟩)), decide_eq_true_iff]
  · rw [isDark_render_iff cw (functionGrid_get_timing hv e m false h8 (by omega) (.inr ⟨rfl, rfl⟩)), decide_eq_true_iff]
  · rw [verticalFormat_eq (by omega), List.getElem?_map, Option.map_eq_some_iff] at hp
    rw [horizontalFormat_eq, List.getElem?_map, Option.map_eq_some_iff] at hq
    obtain ⟨j, hj, rfl⟩ := hp
    obtain ⟨j', hj', rfl⟩ := hq
    have hi : i < 15 := by simpa using (List.getElem?_eq_some_iff.mp hj).1
    rw [List.getElem?_range hi, Option.some.injEq] at hj hj'
    subst hj hj'
    exact ⟨isDark_render_iff cw (functionGrid_get_format hv e m hi (.inl rfl)),
      isDark_render_iff cw (functionGrid_get_format hv e m hi (.inr rfl))⟩
  · exact (isDark_render_iff cw (x := true) (functionGrid_get_fixed hv e m)).mpr rfl
  · exact isDark_render_iff cw (functionGrid_get_version hv e m h7 hi (.inl ⟨rfl, rfl⟩))
  · exact isDark_render_iff cw (functionGrid_get_version hv e m h7 hi (.inr ⟨rfl, rfl⟩))

end Sys2Proof.Machine
end

section
/-! PROOFS. The four penalty rules (46_mask.md R280 to R284): each scan of the model along a list of cells counts what the
rule counts by position; the penalty is their sum, and no side of a legal version takes it past a register
(10_state.md R44). -/

namespace Sys2Proof.Machine

open Sys2Proof Sys2Proof.Claims

/-! Rule (a): runs (46_mask.md R280). -/

/-- What the runs that start at cell i of a line of n cells score; there is at most one. -/
def startScore (n : Nat) (line : Nat → Bool) (i : Nat) : Nat :=
  ((List.range (n + 1)).map fun l => if 5 ≤ l ∧ isRun n line i l then 3 + (l - 5) else 0).sum

theorem runsOfLine_eq_sum (n : Nat) (line : Nat → Bool) :
    runsOfLine n line = ((List.range n).map (startScore n line)).sum := by
  simp only [runsOfLine, List.flatMap, List.sum_flatten, List.map_map]
  rfl

section

variable {n i l : Nat} {line : Nat → Bool}

/-- A run that starts at a cell ends at one cell only. -/
theorem isRun_length_unique {l' : Nat} (h : isRun n line i l) (h' : isRun n line i l') : l = l' := by
  obtain ⟨-, hin, hsame, -, hend⟩ := h
  obtain ⟨-, hin', hsame', -, hend'⟩ := h'
  obtain hlt | rfl | hgt := Nat.lt_trichotomy l l'
  · exact (hend.resolve_left (by omega) (hsame' l hlt)).elim
  · rfl
  · exact (hend'.resolve_left (by omega) (hsame l' hgt)).elim

theorem startScore_of_isRun (h : isRun n line i l) : startScore n line i = runScore l := by
  have hmem : l ∈ List.range (n + 1) := List.mem_range.mpr (by obtain ⟨-, hin, -⟩ := h; omega)
  rw [startScore, List.sum_map_eq_nsmul_single l, List.count_eq_one_of_mem List.nodup_range hmem, one_smul, runScore]
  · exact if_congr (and_iff_left h) rfl rfl
  · exact fun l' hne _ => if_neg fun h' => hne (isRun_length_unique h'.2 h)

/-- No run starts at a cell that continues the colour before it. -/
theorem startScore_of_continues (h0 : i ≠ 0) (h : line (i - 1) = line i) : startScore n line i = 0 := by
  refine List.sum_eq_zero fun x hx => ?_
  obtain ⟨l, -, rfl⟩ := List.mem_map.mp hx
  refine if_neg ?_
  rintro ⟨-, -, -, -, hstart, -⟩
  exact hstart.elim h0 (absurd h)

/-- Of the cells of a run only the first starts one. -/
theorem sum_startScore_of_isRun (h : isRun n line i l) :
    ((List.range' i l).map (startScore n line)).sum = runScore l := by
  obtain ⟨hpos, -, hsame, -, -⟩ := id h
  obtain ⟨k, rfl⟩ := Nat.exists_eq_add_of_le' hpos
  rw [List.range'_succ, List.map_cons, List.sum_cons, startScore_of_isRun h, Nat.add_eq_left]
  refine List.sum_eq_zero fun x hx => ?_
  obtain ⟨j, hj, rfl⟩ := List.mem_map.mp hx
  obtain ⟨d, hd, rfl⟩ := List.mem_range'.mp hj
  refine startScore_of_continues (by omega) ?_
  have hbefore := hsame d (by omega)
  have hcell := hsame (d + 1) (by omega)
  rw [show i + 1 + 1 * d - 1 = i + d by omega, show i + 1 + 1 * d = i + (d + 1) by omega, hbefore, hcell]

end

/-- Reading a line from within a run that started at cell i, l cells ago, with m cells to come. -/
theorem sum_runsFrom (line : Nat → Bool) (m : Nat) : ∀ i l, 1 ≤ l → (∀ k, k < l → line (i + k) = line i) →
    (i = 0 ∨ line (i - 1) ≠ line i) →
    ((runsFrom (line i) l ((List.range' (i + l) m).map line)).map runScore).sum =
      ((List.range' i (l + m)).map (startScore (i + l + m) line)).sum := by
  induction m with
  | zero =>
    intro i l hpos hsame hstart
    have hrun : isRun (i + l) line i l := ⟨hpos, le_rfl, hsame, hstart, .inl rfl⟩
    exact (sum_startScore_of_isRun hrun).symm
  | succ m ih =>
    intro i l hpos hsame hstart
    rw [List.range'_succ, List.map_cons, runsFrom]
    split
    next heq =>
      have hsame' : ∀ k, k < l + 1 → line (i + k) = line i := fun k hk =>
        (Nat.lt_succ_iff_lt_or_eq.mp hk).elim (hsame k) fun h => h ▸ heq
      have hrest := ih i (l + 1) (by omega) hsame' hstart
      rw [show i + (l + 1) + m = i + l + (m + 1) by omega, show l + 1 + m = l + (m + 1) by omega] at hrest
      exact hrest
    next hne =>
      have hrun : isRun (i + l + (m + 1)) line i l := ⟨hpos, by omega, hsame, hstart, .inr hne⟩
      have hlast : line (i + l - 1) = line i := by
        rw [show i + l - 1 = i + (l - 1) by omega]
        exact hsame (l - 1) (by omega)
      have hrest := ih (i + l) 1 le_rfl (fun k hk => by rw [Nat.lt_one_iff.mp hk, Nat.add_zero])
        (.inr (hlast ▸ Ne.symm hne))
      rw [show i + l + 1 + m = i + l + (m + 1) by omega, Nat.add_comm 1 m] at hrest
      rw [List.map_cons, List.sum_cons, hrest, ← sum_startScore_of_isRun hrun, ← List.sum_append, ← List.map_append,
        List.range'_append_1]

/-- Rule (a) over a line. -/
theorem sum_runLengths (n : Nat) (line : Nat → Bool) :
    ((runLengths ((List.range n).map line)).map runScore).sum = runsOfLine n line := by
  rw [runsOfLine_eq_sum, List.range_eq_range']
  cases n with
  | zero => rfl
  | succ m =>
    have h := sum_runsFrom line m 0 1 le_rfl (fun k hk => by rw [Nat.lt_one_iff.mp hk]) (.inl rfl)
    rw [Nat.zero_add, Nat.add_comm 1 m] at h
    exact h

theorem sum_runsFrom_length (colour : Bool) (len : Nat) (cells : List Bool) :
    (runsFrom colour len cells).sum = len + cells.length := by
  induction cells generalizing colour len with
  | nil => rfl
  | cons x xs ih =>
    rw [runsFrom, List.length_cons]
    split
    · rw [ih]; omega
    · rw [List.sum_cons, ih]; omega

theorem runScore_le (len : Nat) : runScore len ≤ len := by
  unfold runScore
  split <;> omega

/-- A line of n cells scores at most n: no run scores more than its length. -/
theorem runsOfLine_le (n : Nat) (line : Nat → Bool) : runsOfLine n line ≤ n := by
  rw [← sum_runLengths]
  calc ((runLengths ((List.range n).map line)).map runScore).sum
      ≤ ((runLengths ((List.range n).map line)).map id).sum := List.sum_le_sum fun l _ => runScore_le l
    _ = n := by
      cases n with
      | zero => rfl
      | succ m => simp [List.range_succ_eq_map, runLengths, sum_runsFrom_length, Nat.add_comm]

/-! Rule (b): blocks (46_mask.md R281). -/

/-- The blocks between two neighbouring rows, read from cell c on. -/
theorem blocksBetween_range' (upper lower : Nat → Bool) : ∀ c m,
    blocksBetween ((List.range' c m).map upper) ((List.range' c m).map lower) =
      ((List.range' c (m - 1)).filter fun c =>
        upper c == lower c && upper c == upper (c + 1) && upper c == lower (c + 1)).length
  | _, 0 => rfl
  | _, 1 => rfl
  | c, m + 2 => by
    have hrest := blocksBetween_range' upper lower (c + 1) (m + 1)
    simp only [List.range'_succ, List.map_cons, Nat.add_one_sub_one,
      ← List.countP_eq_length_filter] at hrest ⊢
    rw [blocksBetween, hrest, List.countP_cons, Nat.add_comm]
    simp only [Bool.and_eq_true, beq_iff_eq, and_assoc, and_left_comm]

/-- The blocks of the rows from row r on. -/
theorem blockCount_range' (n : Nat) (x : Nat → Nat → Bool) : ∀ r m,
    blockCount ((List.range' r m).map fun r => (List.range n).map (x r)) =
      ((List.range' r (m - 1)).map fun r => ((List.range (n - 1)).filter fun c =>
        x r c == x (r + 1) c && x r c == x r (c + 1) && x r c == x (r + 1) (c + 1)).length).sum
  | _, 0 => rfl
  | _, 1 => rfl
  | r, m + 2 => by
    have hrest := blockCount_range' n x (r + 1) (m + 1)
    simp only [List.range'_succ, List.map_cons, Nat.add_one_sub_one, List.sum_cons] at hrest ⊢
    rw [blockCount, hrest, List.range_eq_range', List.range_eq_range', blocksBetween_range']

/-- Rule (b) over the square. -/
theorem blockCount_eq (n : Nat) (x : Nat → Nat → Bool) :
    blockCount ((List.range n).map fun r => (List.range n).map (x r)) = blocksOf n x := by
  simpa only [blocksOf, List.range_eq_range'] using blockCount_range' n x 0 n

/-! Rule (c): windows (46_mask.md R282). -/

/-- No window fits in fewer than 7 cells. -/
theorem not_isPrefixOf_finderWindow_of_short {l : List Bool} (h : l.length < 7) : finderWindow.isPrefixOf l = false := by
  rw [Bool.eq_false_iff, Ne, List.isPrefixOf_iff_prefix]
  intro hp
  exact absurd hp.length_le (by simpa [finderWindow] using h)

theorem windowCount_of_short : ∀ {l : List Bool}, l.length < 7 → windowCount l = 0
  | [], _ => rfl
  | x :: xs, h => by
    rw [windowCount, not_isPrefixOf_finderWindow_of_short h, windowCount_of_short (Nat.lt_of_succ_lt h)]
    rfl

/-- The window at the first cell of a line of at least 7 cells. -/
theorem isPrefixOf_finderWindow_range' (line : Nat → Bool) (i m : Nat) :
    finderWindow.isPrefixOf ((List.range' i (m + 7)).map line) =
      (line i && !line (i + 1) && line (i + 2) && line (i + 3) && line (i + 4) && !line (i + 5) && line (i + 6)) := by
  simp [finderWindow, List.range'_succ, List.isPrefixOf, Bool.and_assoc]

/-- The windows of a line, read from cell i on. -/
theorem windowCount_range' (line : Nat → Bool) (m : Nat) : ∀ i,
    windowCount ((List.range' i (m + 6)).map line) = ((List.range' i m).filter fun i =>
      line i && !line (i + 1) && line (i + 2) && line (i + 3) && line (i + 4) && !line (i + 5) && line (i + 6)).length := by
  induction m with
  | zero => intro i; exact windowCount_of_short (by simp)
  | succ m ih =>
    intro i
    have hstep : windowCount ((List.range' i (m + 7)).map line) =
        (if finderWindow.isPrefixOf ((List.range' i (m + 7)).map line) then 1 else 0) +
          windowCount ((List.range' (i + 1) (m + 6)).map line) := rfl
    rw [show m + 1 + 6 = m + 7 from rfl, hstep, ih, isPrefixOf_finderWindow_range', List.range'_succ,
      ← List.countP_eq_length_filter, ← List.countP_eq_length_filter, List.countP_cons, Nat.add_comm]

/-- Rule (c) over a line. -/
theorem windowCount_eq (n : Nat) (line : Nat → Bool) : windowCount ((List.range n).map line) = windowsOfLine n line := by
  rw [windowsOfLine]
  obtain h | ⟨m, rfl⟩ := (Nat.lt_or_ge n 7).imp_right Nat.exists_eq_add_of_le'
  · rw [windowCount_of_short (by simpa using h), Nat.sub_eq_zero_of_le (Nat.le_of_lt_succ h)]
    rfl
  · rw [List.range_eq_range', List.range_eq_range', show m + 7 - 6 = m + 1 by omega]
    exact windowCount_range' line (m + 1) 0

/-! Rule (d): the balance (46_mask.md R283). -/

theorem darkCount_eq (n : Nat) (g : Grid) : darkCount n g = darkCells n (darkIn g) := by
  rw [darkCount, cellsOf, List.count_flatMap, darkCells]
  refine congrArg List.sum (List.map_congr_left fun r _ => ?_)
  rw [Function.comp_apply, List.count, List.countP_map, List.countP_eq_length_filter]
  rfl

theorem penD_eq (n dark : Nat) : penD n dark = balanceOf dark (n * n) := by
  rw [penD, balanceOf]
  congr 2
  split <;> omega

/-! The sum of the rules (46_mask.md R284). -/

theorem penalty_eq_totalPenalty (n : Nat) (g : Grid) : penalty n g = totalPenalty n (darkIn g) := by
  have hrows : (List.range n).map (gridRow g n) = (List.range n).map fun r => (List.range n).map (darkIn g r) := rfl
  have hrow (r : Nat) : gridRow g n r = (List.range n).map fun c => darkIn g r c := rfl
  have hcolumn (c : Nat) : gridColumn g n c = (List.range n).map fun r => darkIn g r c := rfl
  rw [penalty, hrows, penB, blockCount_eq, darkCount_eq, penD_eq]
  simp only [totalPenalty, penA, penC, gridLines, List.map_append, List.map_map, List.sum_append,
    Function.comp_def, hrow, hcolumn, sum_runLengths, windowCount_eq, List.sum_map_add,
     List.sum_map_mul_left]
  omega

theorem sum_map_range_le {n b : Nat} {f : Nat → Nat} (h : ∀ i < n, f i ≤ b) : ((List.range n).map f).sum ≤ n * b := by
  have hall : ∀ x ∈ (List.range n).map f, x ≤ b := by
    simpa using h
  simpa using List.sum_le_card_nsmul _ b hall

theorem windowsOfLine_le (n : Nat) (line : Nat → Bool) : windowsOfLine n line ≤ n :=
  (List.length_filter_le ..).trans (by simp)

theorem blocksOf_le (n : Nat) (x : Nat → Nat → Bool) : blocksOf n x ≤ n * n :=
  (sum_map_range_le fun _ _ => (List.length_filter_le ..).trans (List.length_range).le).trans
    (Nat.mul_le_mul (Nat.sub_le n 1) (Nat.sub_le n 1))

theorem darkCells_le (n : Nat) (x : Nat → Nat → Bool) : darkCells n x ≤ n * n :=
  sum_map_range_le fun _ _ => (List.length_filter_le ..).trans (List.length_range).le

theorem balanceOf_le {d t : Nat} (h : d ≤ t) : balanceOf d t ≤ 100 := by
  have hquot : (if 20 * d ≤ 10 * t then 10 * t - 20 * d else 20 * d - 10 * t) / t ≤ 10 :=
    Nat.div_le_of_le_mul (by split <;> omega)
  unfold balanceOf
  omega

/-- A line scores at most n for its runs and 40 · n for its windows, the square 3 · n² for its blocks and 100 for its
balance. -/
theorem totalPenalty_le (n : Nat) (x : Nat → Nat → Bool) : totalPenalty n x ≤ 85 * (n * n) + 100 := by
  have hlines := sum_map_range_le (n := n) (b := 82 * n) fun i _ => show
      runsOfLine n (fun c => x i c) + runsOfLine n (fun r => x r i) +
        40 * (windowsOfLine n (fun c => x i c) + windowsOfLine n (fun r => x r i)) ≤ 82 * n by
    have hrow := runsOfLine_le n fun c => x i c
    have hcolumn := runsOfLine_le n fun r => x r i
    have hrow' := windowsOfLine_le n fun c => x i c
    have hcolumn' := windowsOfLine_le n fun r => x r i
    omega
  have hblocks := blocksOf_le n x
  have hbalance := balanceOf_le (darkCells_le n x)
  rw [Nat.mul_left_comm] at hlines
  unfold totalPenalty
  omega

/-- Settles O55: the scans count what the rules count, and a side of at most 177 scores under 85 · 177² + 100. -/
theorem penaltyFitsRegister : Obligations.PenaltyFitsRegister := by
  refine fun n g => ⟨penalty_eq_totalPenalty n g, fun _ hn => ?_⟩
  calc totalPenalty n (darkIn g) ≤ 85 * (n * n) + 100 := totalPenalty_le n (darkIn g)
    _ ≤ 85 * (177 * 177) + 100 := by gcongr
    _ < 2 ^ 32 := by norm_num

end Sys2Proof.Machine
end

section
/-! PROOFS. MX_SCORE, MX_GET and MX_MAKE whose checks pass (46_mask.md R285, R286, 45_matrix.md R255). -/

namespace Sys2Proof.Machine

open Sys2Proof Sys2Proof.Claims

/-! MX_SCORE and MX_GET. -/

/-- MX_SCORE with a matrix (46_mask.md R285). -/
theorem exec_mxScore_ok {s : State} (h : s.mtxState ≠ .none) :
    exec .mxScore s = .next (State.complete .none { s with
      res0 := result (penalty s.modCount.toNat s.mtx)
      res1 := result (darkCount s.modCount.toNat s.mtx) }) := by
  simp only [exec, execMxScore, if_neg h, finish_ok]

/-- MX_GET of a cell of the matrix (45_matrix.md R255). -/
theorem exec_mxGet_ok {s : State} (h : s.mtxState ≠ .none)
    (hin : ¬(s.modCount.toNat ≤ s.argA ∨ s.modCount.toNat ≤ s.argB)) :
    exec .mxGet s = .next (State.complete .none { s with
      res0 := if s.mtx.get s.argA s.argB = .dark then 1 else 0 }) := by
  simp only [exec, execMxGet, if_neg h, if_neg hin, finish_ok]

/-- Settles O48: the model's penalty and dark count are those of the rules. -/
theorem mxScoreAndGetResults : Obligations.MxScoreAndGetResults := by
  refine fun s h => ⟨?_, fun hr hc => exec_mxGet_ok h (not_or.mpr ⟨Nat.not_le.mpr hr, Nat.not_le.mpr hc⟩)⟩
  rw [exec_mxScore_ok h, penalty_eq_totalPenalty, darkCount_eq]
  rfl

/-! The choice of the mask (46_mask.md R286). -/

/-- Position k holds the least element of a list, and no earlier position holds it. -/
structure IsLeastIndex (l : List Nat) (k : Nat) : Prop where
  inRange : k < l.length
  least : ∀ j < l.length, l.getD k 0 ≤ l.getD j 0
  first : ∀ j < k, l.getD k 0 < l.getD j 0

theorem isLeastIndex_leastIndex : ∀ {l : List Nat}, l ≠ [] → IsLeastIndex l (leastIndex l)
  | [x], _ => by
    refine ⟨Nat.one_pos, fun j hj => ?_, fun j hj => absurd hj (Nat.not_lt_zero j)⟩
    rw [Nat.lt_one_iff.mp hj]
    rfl
  | x :: y :: rest, _ => by
    obtain ⟨hrange, hleast, hfirst⟩ := isLeastIndex_leastIndex (l := y :: rest) (List.cons_ne_nil y rest)
    rw [leastIndex]
    split
    next hx =>
      refine ⟨Nat.zero_lt_succ _, fun j hj => ?_, fun j hj => absurd hj (Nat.not_lt_zero j)⟩
      cases j with
      | zero => exact le_rfl
      | succ j => exact hx.trans (hleast j (Nat.lt_of_succ_lt_succ hj))
    next hx =>
      refine ⟨Nat.succ_lt_succ hrange, fun j hj => ?_, fun j hj => ?_⟩
      · cases j with
        | zero => exact (Nat.not_le.mp hx).le
        | succ j => exact hleast j (Nat.lt_of_succ_lt_succ hj)
      · cases j with
        | zero => exact Nat.not_le.mp hx
        | succ j => exact hfirst j (Nat.lt_of_succ_lt_succ hj)

/-- The penalty of a test render is the sum of the four rules (46_mask.md R284, R286). -/
theorem trialPenalty_eq (v : Nat) (e : BitVec 2) (cw : List Byte) (m : BitVec 3) :
    trialPenalty v e cw m = totalPenalty (4 * v + 17) (darkIn (render v e cw m true)) :=
  penalty_eq_totalPenalty _ _

theorem trialPenalties_length (v : Nat) (e : BitVec 2) (cw : List Byte) : (trialPenalties v e cw).length = 8 := by
  simp [trialPenalties]

theorem trialPenalties_getD (v : Nat) (e : BitVec 2) (cw : List Byte) {k : Nat} (hk : k < 8) :
    (trialPenalties v e cw).getD k 0 = trialPenalty v e cw (.ofNat 3 k) := by
  simp [trialPenalties, List.getD_eq_getElem?_getD, List.getElem?_range hk]

theorem trialPenalties_getD_toNat (v : Nat) (e : BitVec 2) (cw : List Byte) (m : BitVec 3) :
    (trialPenalties v e cw).getD m.toNat 0 = trialPenalty v e cw m := by
  rw [trialPenalties_getD v e cw m.isLt, BitVec.ofNat_toNat, BitVec.setWidth_eq]

/-- The mask MX_MAKE chooses. -/
def bestMask (v : Nat) (e : BitVec 2) (cw : List Byte) : BitVec 3 := .ofNat 3 (leastIndex (trialPenalties v e cw))

section

variable (v : Nat) (e : BitVec 2) (cw : List Byte)

theorem isLeastIndex_trialPenalties :
    IsLeastIndex (trialPenalties v e cw) (leastIndex (trialPenalties v e cw)) :=
  isLeastIndex_leastIndex (List.ne_nil_of_length_pos (by rw [trialPenalties_length]; decide))

theorem bestMask_toNat : (bestMask v e cw).toNat = leastIndex (trialPenalties v e cw) := by
  have h := (isLeastIndex_trialPenalties v e cw).inRange
  rw [trialPenalties_length] at h
  exact (BitVec.toNat_ofNat ..).trans (Nat.mod_eq_of_lt h)

theorem bestMask_least (m : BitVec 3) : trialPenalty v e cw (bestMask v e cw) ≤ trialPenalty v e cw m := by
  have h := (isLeastIndex_trialPenalties v e cw).least m.toNat (by rw [trialPenalties_length]; exact m.isLt)
  rwa [← bestMask_toNat, trialPenalties_getD_toNat, trialPenalties_getD_toNat] at h

theorem bestMask_first {m : BitVec 3} (hm : m < bestMask v e cw) :
    trialPenalty v e cw (bestMask v e cw) < trialPenalty v e cw m := by
  have h := (isLeastIndex_trialPenalties v e cw).first m.toNat (by rw [← bestMask_toNat]; exact hm)
  rwa [← bestMask_toNat, trialPenalties_getD_toNat, trialPenalties_getD_toNat] at h

end

/-- MX_MAKE whose checks pass (46_mask.md R286). -/
theorem exec_mxMake_ok {s : State} {cw : List Byte} (hv : ¬s.versionIllegal) (ho : ¬s.outside s.argA s.argB)
    (hread : s.mem.readBytes s.argA s.argB = .ok cw) (hcap : ¬dataModules s.v < 8 * s.argB) :
    exec .mxMake s = .next (State.complete .none
      { s.withMatrix (render s.v s.ecLevel cw (bestMask s.v s.ecLevel cw) false) (bestMask s.v s.ecLevel cw) .final with
        penalty := Vector.ofFn fun m => result (trialPenalty s.v s.ecLevel cw (.ofNat 3 m.val))
        res0 := (bestMask s.v s.ecLevel cw).setWidth 32
        res1 := result (trialPenalty s.v s.ecLevel cw (bestMask s.v s.ecLevel cw)) }) := by
  have hpenalty : (Vector.ofFn fun m : Fin 8 => result ((trialPenalties s.v s.ecLevel cw).getD m.val 0)) =
      Vector.ofFn fun m : Fin 8 => result (trialPenalty s.v s.ecLevel cw (.ofNat 3 m.val)) :=
    congrArg Vector.ofFn (funext fun m => congrArg result (trialPenalties_getD s.v s.ecLevel cw m.isLt))
  have hmask : result (bestMask s.v s.ecLevel cw).toNat = (bestMask s.v s.ecLevel cw).setWidth 32 :=
    BitVec.ofNat_toNat ..
  simp only [exec, execMxMake, if_neg hv, if_neg ho, hread, if_neg hcap, finish_ok, hpenalty]
  rw [← hmask, ← trialPenalties_getD_toNat, bestMask_toNat, bestMask]

/-- Settles O47: the codewords are read as M holds them, no check fails, and the mask chosen is the first of the least
penalties. -/
theorem mxMakeResult : Obligations.MxMakeResult := by
  intro s cw h1 h40 hin hlen hholds hcap
  have hv : ¬s.versionIllegal := State.not_versionIllegal h1 h40
  have hread : s.mem.readBytes s.argA s.argB = .ok cw := (Memory.readBytes_ok_iff _ _ _ _).mpr ⟨hlen, hholds⟩
  have hexec := exec_mxMake_ok hv (Nat.not_lt.mpr hin) hread (Nat.not_lt.mpr hcap)
  simp only [← trialPenalty_eq]
  exact ⟨bestMask s.v s.ecLevel cw, bestMask_least _ _ _, fun m => bestMask_first _ _ _, hexec⟩

end Sys2Proof.Machine
end

section
/-! PROOFS. The error completion: what a step of the engine that ends with an error changes (60_exceptions.md R303). -/

namespace Sys2Proof.Machine

open Sys2Proof

/-- Of the three ends of a command, a success leaves ERR = NONE and a model fault is recorded in FAULT, so a command that ends
with a nonzero ERR and no fault has made the error completion alone. -/
theorem exec_error {i : Instr} {s t : State} (hf : s.fault = none) (h : exec i s = .next t) (ht : t.fault = none)
    (he : t.err ≠ .none) : t = s.complete t.err := by
  obtain ⟨u, -, rfl⟩ | ⟨c, rfl⟩ | ⟨f, rfl⟩ := exec_cases h
  · exact absurd rfl he
  · rfl
  · rw [State.recordFault_fault_of_clean f hf] at ht
    cases ht

/-- The same of the engine's turn while BUSY = 1: an ILLEGAL word, too, ends with the error completion alone (R123). -/
theorem engineTurn_error {s t : State} (hf : s.fault = none) (hb : s.busy = true) (h : engineTurn s = .next t)
    (ht : t.fault = none) (he : t.err ≠ .none) : t = s.complete t.err := by
  obtain ⟨hidle, -⟩ | ⟨-, i, -, hturn⟩ | ⟨-, r, -, hturn⟩ := engineTurn_cases s
  · rw [hb] at hidle
    cases hidle
  · exact exec_error hf (hturn.symm.trans h) ht he
  · cases hturn.symm.trans h
    rfl

/-- Settles O19: the step is the engine's turn on the rest of the schedule, which makes the error completion alone, and ERRF is
computed from ERR. -/
theorem errorChangesOnlyStatus : Obligations.ErrorChangesOnlyStatus := by
  intro s t rest hf hb hs hstep ht he
  have hturn : engineTurn (s.withTurns rest) = .next t := (takeTurn_engine hf hs).symm.trans hstep
  refine ⟨engineTurn_error (s := s.withTurns rest) hf hb hturn ht he, ?_⟩
  rw [t.status_errf, t.errf_eq, decide_eq_true he]

end Sys2Proof.Machine
end

section
/-! PROOFS. The BUSY hazard and the reset (70_reset_and_hazards.md R330, R340). The reset input leaves State.reset as it is,
so what holds after the reset input of any state holds of State.reset. -/

namespace Sys2Proof.Machine

open Sys2Proof

/-! The BUSY hazard. -/

/-- While BUSY = 1 an access other than a 32-bit read of STATUS is the fault HostHazard, whatever it reaches (R340). -/
theorem State.hostAccess_hazard {s : State} {a : HostAccess} (hb : s.busy = true)
    (ha : a ≠ .read HostReg.status.offset 32) : s.hostAccess a = s.recordFault (.hostHazard a.offset) :=
  if_pos ⟨hb, ha⟩

/-- The step of such an access records the hazard, and the access uses up its turn. -/
theorem step_host_hazard {s : State} {a : HostAccess} {rest : List Turn} (hf : s.fault = none) (hb : s.busy = true)
    (h : s.schedule = .host a :: rest) (ha : a ≠ .read HostReg.status.offset 32) :
    step s = .next { s with schedule := rest, fault := some (.hostHazard a.offset) } := by
  have hstep : step s = .next ((s.withTurns rest).hostAccess a) := takeTurn_host hf h
  rw [hstep, State.hostAccess_hazard (s := s.withTurns rest) hb ha, State.recordFault_of_clean (s := s.withTurns rest) hf]
  rfl

/-- The step of a 32-bit read of STATUS is the same whatever BUSY is. -/
theorem step_read_status {s : State} {rest : List Turn} (hf : s.fault = none)
    (h : s.schedule = .host (.read HostReg.status.offset 32) :: rest) :
    step s = .next { s with schedule := rest, lastRead := some s.status } := by
  have hstep : step s = .next (s.withTurns rest).readStatus := takeTurn_host hf h
  rw [hstep, State.readStatus_eq]
  rfl

/-- Settles O10: a read of STATUS is answered whatever BUSY is, and every other access is the hazard. -/
theorem busyHazard : Obligations.BusyHazard := fun _ _ _ hf hb h =>
  ⟨fun ha => step_read_status hf (ha ▸ h), step_host_hazard hf hb h⟩

/-! Reset. -/

/-- Settles O17: the reset input acts in every state, also while BUSY = 1 or with a fault recorded, on the rest of the
schedule. -/
theorem resetInput : Obligations.ResetInput := fun _ _ h => takeTurn_reset h

/-- State.reset already holds every reset value of its instance (R330). -/
theorem State.reset_resetInput : State.reset.resetInput = State.reset := rfl

/-- Every slot of the GEN store holds 0 after reset, and there is nothing else beyond them (10_state.md R38). -/
theorem State.reset_gen_getD (j : Nat) : State.reset.gen.getD j 0 = 0 := by
  rw [List.getD_eq_getElem?_getD]
  exact List.getElem?_getD_replicate_default_eq _ _ j

theorem State.reset_penalty (m : Fin 8) : State.reset.penalty[m] = 0 := Vector.getElem_replicate m.isLt

/-- Settles O18: each register by evaluation, and the stores by what a read of a cleared store gives. -/
theorem resetState : Obligations.ResetState :=
  ⟨rfl, rfl, rfl, rfl, rfl, rfl, rfl, rfl, rfl, rfl, rfl, rfl, rfl, rfl, rfl, rfl, rfl, rfl, rfl,
    State.reset_gen_getD, State.reset_penalty, Memory.read_nil, Grid.get_unset⟩

theorem Params.default_legal : Params.default.Legal := by decide

/-- The reset input clears the bit stream, and an empty one is sound (44_packer.md R201). -/
theorem resetInput_streamSound (s : State) : s.resetInput.StreamSound where
  fits := fun h => absurd rfl h
  defined := nofun

/-- Settles O56: each invariant holds after the reset input of any state, and State.reset is such a state. -/
theorem resetIsSound : Obligations.ResetIsSound := by
  refine ⟨Params.default_legal, ?_⟩
  rw [← State.reset_resetInput]
  exact ⟨resetInput_memorySound _, resetInput_generatorSound _, resetInput_streamSound _, resetInput_matrixSound _⟩

end Sys2Proof.Machine
end
